-- ==== Sys2Proof/Word.lean ====
section
/-! DEFINITION. The word types of the core
(spec/00_scope.md R7, R10, R11; spec/10_state.md R21). -/

namespace Sys2Proof

/-- An 8-bit byte: a V register, a timer, a memory byte (R7). -/
abbrev Byte := BitVec 8

/-- A 16-bit word: an instruction word, `pc`, `I`, a stack entry (R7). -/
abbrev Word := BitVec 16

/-- A 4-bit nibble of an instruction word (R10). -/
abbrev Nibble := BitVec 4

/-- The 12-bit operand `nnn` (R10, R72). -/
abbrev Imm12 := BitVec 12

/-- A general register number, and likewise a key number: 0 to 15 "by construction" (R21). -/
abbrev Reg := Fin 16

/-- The flag register VF is `V[15]` (R22). -/
abbrev VF : Reg := 15

end Sys2Proof
end

