-- ==== Sys2Proof/Syntax.lean ====
section
/-! DEFINITION. The instructions: one constructor per row of spec/opcode_table.json
(spec/30_encoding.md R73), with the operands of R71 and R72. -/

namespace Sys2Proof

/-- The 35 instructions (R2, R73). `x` and `y` are register numbers, `nn` an 8-bit immediate, `nnn` a
12-bit immediate, `n` a sprite height of 0 to 15. The `y` of `shr` and `shl` is encoded and not read
(R138, R140); it is kept so that the word can be written back. -/
inductive Instr where
  /-- `0000` NOP (R110). -/
  | nop
  /-- `00E0` CLS (R181). -/
  | cls
  /-- `00EE` RET (R115). -/
  | ret
  /-- `1nnn` JP nnn (R112). -/
  | jp (nnn : Imm12)
  /-- `2nnn` CALL nnn (R114). -/
  | call (nnn : Imm12)
  /-- `3xnn` SE Vx, nn (R116). -/
  | seImm (x : Reg) (nn : Byte)
  /-- `4xnn` SNE Vx, nn (R117). -/
  | sneImm (x : Reg) (nn : Byte)
  /-- `5xy0` SE Vx, Vy (R118). -/
  | seReg (x y : Reg)
  /-- `6xnn` LD Vx, nn (R130). -/
  | ldImm (x : Reg) (nn : Byte)
  /-- `7xnn` ADD Vx, nn (R131). -/
  | addImm (x : Reg) (nn : Byte)
  /-- `8xy0` LD Vx, Vy (R132). -/
  | ldReg (x y : Reg)
  /-- `8xy1` OR Vx, Vy (R133). -/
  | orReg (x y : Reg)
  /-- `8xy2` AND Vx, Vy (R134). -/
  | andReg (x y : Reg)
  /-- `8xy3` XOR Vx, Vy (R135). -/
  | xorReg (x y : Reg)
  /-- `8xy4` ADD Vx, Vy (R136). -/
  | addReg (x y : Reg)
  /-- `8xy5` SUB Vx, Vy (R137). -/
  | subReg (x y : Reg)
  /-- `8xy6` SHR Vx {, Vy} (R138). -/
  | shr (x y : Reg)
  /-- `8xy7` SUBN Vx, Vy (R139). -/
  | subnReg (x y : Reg)
  /-- `8xyE` SHL Vx {, Vy} (R140). -/
  | shl (x y : Reg)
  /-- `9xy0` SNE Vx, Vy (R119). -/
  | sneReg (x y : Reg)
  /-- `Annn` LD I, nnn (R160). -/
  | ldI (nnn : Imm12)
  /-- `Bnnn` JP V0, nnn (R120). -/
  | jpV0 (nnn : Imm12)
  /-- `Cxnn` RND Vx, nn (R141). -/
  | rnd (x : Reg) (nn : Byte)
  /-- `Dxyn` DRW Vx, Vy, n (R183). -/
  | drw (x y : Reg) (n : Nibble)
  /-- `Ex9E` SKP Vx (R200). -/
  | skp (x : Reg)
  /-- `ExA1` SKNP Vx (R201). -/
  | sknp (x : Reg)
  /-- `Fx07` LD Vx, DT (R202). -/
  | ldVxDT (x : Reg)
  /-- `Fx0A` LD Vx, K (R203). -/
  | ldVxK (x : Reg)
  /-- `Fx15` LD DT, Vx (R204). -/
  | ldDTVx (x : Reg)
  /-- `Fx18` LD ST, Vx (R205). -/
  | ldSTVx (x : Reg)
  /-- `Fx1E` ADD I, Vx (R161). -/
  | addI (x : Reg)
  /-- `Fx29` LD F, Vx (R163). -/
  | ldF (x : Reg)
  /-- `Fx33` LD B, Vx (R164). -/
  | ldB (x : Reg)
  /-- `Fx55` LD [I], Vx (R165). -/
  | storeRegs (x : Reg)
  /-- `Fx65` LD Vx, [I] (R166). -/
  | loadRegs (x : Reg)
  deriving DecidableEq, Repr

end Sys2Proof
end

