-- ==== Sys2Proof/WellFormed.lean ====
section
/-! DEFINITION. Which words are instructions (spec/30_encoding.md R73, R75), as the spec's own table of masks
and matches. A term of `Instr` needs no check of its own: every operand is of a type that has exactly the values
its field has (R21 "need no additional validation"), so what can be ill formed is a word. -/

namespace Sys2Proof

/-- One row of the opcode map: a word is that row's instruction when its bits under `mask` are `pattern` (R73). -/
structure OpRow where
  mask : Word
  pattern : Word
  deriving DecidableEq, Repr

/-- The word meets the row's mask and match (R73, R93). -/
def OpRow.holds (r : OpRow) (w : Word) : Bool := w &&& r.mask == r.pattern

/-- The rows whose word is fixed: `0000`, `00E0`, `00EE` (R73, format Z). -/
def rowsZ : List OpRow := [⟨0xFFFF, 0x0000⟩, ⟨0xFFFF, 0x00E0⟩, ⟨0xFFFF, 0x00EE⟩]

/-- The rows a first nibble alone selects: 1, 2, 3, 4, 6, 7, A, B, C, D (R73, formats NNN, XNN, XYN). -/
def rowsNibble : List OpRow :=
  [⟨0xF000, 0x1000⟩, ⟨0xF000, 0x2000⟩, ⟨0xF000, 0x3000⟩, ⟨0xF000, 0x4000⟩, ⟨0xF000, 0x6000⟩,
   ⟨0xF000, 0x7000⟩, ⟨0xF000, 0xA000⟩, ⟨0xF000, 0xB000⟩, ⟨0xF000, 0xC000⟩, ⟨0xF000, 0xD000⟩]

/-- The rows the first and the last nibble select (R73, format XY). -/
def rowsXY : List OpRow :=
  [⟨0xF00F, 0x5000⟩, ⟨0xF00F, 0x8000⟩, ⟨0xF00F, 0x8001⟩, ⟨0xF00F, 0x8002⟩, ⟨0xF00F, 0x8003⟩, ⟨0xF00F, 0x8004⟩,
   ⟨0xF00F, 0x8005⟩, ⟨0xF00F, 0x8006⟩, ⟨0xF00F, 0x8007⟩, ⟨0xF00F, 0x800E⟩, ⟨0xF00F, 0x9000⟩]

/-- The rows the first nibble and the low byte select (R73, format X). -/
def rowsX : List OpRow :=
  [⟨0xF0FF, 0xE09E⟩, ⟨0xF0FF, 0xE0A1⟩, ⟨0xF0FF, 0xF007⟩, ⟨0xF0FF, 0xF00A⟩, ⟨0xF0FF, 0xF015⟩, ⟨0xF0FF, 0xF018⟩,
   ⟨0xF0FF, 0xF01E⟩, ⟨0xF0FF, 0xF029⟩, ⟨0xF0FF, 0xF033⟩, ⟨0xF0FF, 0xF055⟩, ⟨0xF0FF, 0xF065⟩]

/-- The 35 rows of R73. -/
def opRows : List OpRow := rowsZ ++ rowsNibble ++ rowsXY ++ rowsX

/-- The word is an instruction: it meets some row of R73. Every other word is unrecognised (R75). -/
def wellFormedWord (w : Word) : Bool := opRows.any (fun r => r.holds w)

end Sys2Proof
end

