-- ==== Sys2Proof/Decode.lean ====
section
/-! DEFINITION. Bytes to instructions and back: the fields of a word (spec/00_scope.md R10, spec/30_encoding.md
R71), the decoder (R73, R93), which rejects every unrecognised word by name (R75), and the encoder. -/

namespace Sys2Proof

/-! ### The bytes and the fields of a word -/

/-- `{hi, lo}` of R11: the 16-bit value `hi * 256 + lo`. -/
def joinBytes (hi lo : Byte) : Word := hi ++ lo

/-- The high byte of a word, which stands at the lower address (R56). -/
def highByte (w : Word) : Byte := w.extractLsb' 8 8

/-- The low byte of a word. -/
def lowByte (w : Word) : Byte := w.extractLsb' 0 8

/-- `n1 = op[15:12]` (R10, R71). -/
def n1 (w : Word) : Nibble := w.extractLsb' 12 4

/-- `n2 = op[11:8]` (R10, R71). -/
def n2 (w : Word) : Nibble := w.extractLsb' 8 4

/-- `n3 = op[7:4]` (R10, R71). -/
def n3 (w : Word) : Nibble := w.extractLsb' 4 4

/-- `n4 = op[3:0]` (R10, R71). -/
def n4 (w : Word) : Nibble := w.extractLsb' 0 4

/-- `x`: the register number n2 names (R10). -/
def fieldX (w : Word) : Reg := (n2 w).toFin

/-- `y`: the register number n3 names (R10). -/
def fieldY (w : Word) : Reg := (n3 w).toFin

/-- `nnn = op[11:0]` (R10, R72). -/
def fieldNNN (w : Word) : Imm12 := w.extractLsb' 0 12

/-- The nibble that stands for a register number. -/
def regNibble (r : Reg) : Nibble := BitVec.ofFin r

/-! ### Decoding -/

/-- Why bytes are no instruction. -/
inductive DecodeError where
  /-- The word meets no row of R73 (R75); executing it raises `UnimplementedOpcode` (R95). -/
  | unimplementedOpcode (op : Word)
  /-- Fewer than the two bytes an instruction has (R70). -/
  | truncated
  deriving DecidableEq, Repr

/-- First nibble 0: only the three whole words (R73). -/
def decodeZ (w : Word) : Except DecodeError Instr :=
  match w with
  | 0x0000#16 => .ok .nop
  | 0x00E0#16 => .ok .cls
  | 0x00EE#16 => .ok .ret
  | _ => .error (.unimplementedOpcode w)

/-- First nibble 8: the last nibble selects one of nine (R73). -/
def decode8 (w : Word) : Except DecodeError Instr :=
  match n4 w with
  | 0x0#4 => .ok (.ldReg (fieldX w) (fieldY w))
  | 0x1#4 => .ok (.orReg (fieldX w) (fieldY w))
  | 0x2#4 => .ok (.andReg (fieldX w) (fieldY w))
  | 0x3#4 => .ok (.xorReg (fieldX w) (fieldY w))
  | 0x4#4 => .ok (.addReg (fieldX w) (fieldY w))
  | 0x5#4 => .ok (.subReg (fieldX w) (fieldY w))
  | 0x6#4 => .ok (.shr (fieldX w) (fieldY w))
  | 0x7#4 => .ok (.subnReg (fieldX w) (fieldY w))
  | 0xE#4 => .ok (.shl (fieldX w) (fieldY w))
  | _ => .error (.unimplementedOpcode w)

/-- First nibble E: the low byte selects one of two (R73). -/
def decodeE (w : Word) : Except DecodeError Instr :=
  match lowByte w with
  | 0x9E#8 => .ok (.skp (fieldX w))
  | 0xA1#8 => .ok (.sknp (fieldX w))
  | _ => .error (.unimplementedOpcode w)

/-- First nibble F: the low byte selects one of nine (R73). -/
def decodeF (w : Word) : Except DecodeError Instr :=
  match lowByte w with
  | 0x07#8 => .ok (.ldVxDT (fieldX w))
  | 0x0A#8 => .ok (.ldVxK (fieldX w))
  | 0x15#8 => .ok (.ldDTVx (fieldX w))
  | 0x18#8 => .ok (.ldSTVx (fieldX w))
  | 0x1E#8 => .ok (.addI (fieldX w))
  | 0x29#8 => .ok (.ldF (fieldX w))
  | 0x33#8 => .ok (.ldB (fieldX w))
  | 0x55#8 => .ok (.storeRegs (fieldX w))
  | 0x65#8 => .ok (.loadRegs (fieldX w))
  | _ => .error (.unimplementedOpcode w)

/-- The decoder (R73, R93): the one instruction the word is, or its rejection (R75, R77). -/
def decode (w : Word) : Except DecodeError Instr :=
  match n1 w with
  | 0x0#4 => decodeZ w
  | 0x1#4 => .ok (.jp (fieldNNN w))
  | 0x2#4 => .ok (.call (fieldNNN w))
  | 0x3#4 => .ok (.seImm (fieldX w) (lowByte w))
  | 0x4#4 => .ok (.sneImm (fieldX w) (lowByte w))
  | 0x5#4 => if n4 w = 0 then .ok (.seReg (fieldX w) (fieldY w)) else .error (.unimplementedOpcode w)
  | 0x6#4 => .ok (.ldImm (fieldX w) (lowByte w))
  | 0x7#4 => .ok (.addImm (fieldX w) (lowByte w))
  | 0x8#4 => decode8 w
  | 0x9#4 => if n4 w = 0 then .ok (.sneReg (fieldX w) (fieldY w)) else .error (.unimplementedOpcode w)
  | 0xA#4 => .ok (.ldI (fieldNNN w))
  | 0xB#4 => .ok (.jpV0 (fieldNNN w))
  | 0xC#4 => .ok (.rnd (fieldX w) (lowByte w))
  | 0xD#4 => .ok (.drw (fieldX w) (fieldY w) (n4 w))
  | 0xE#4 => decodeE w
  | 0xF#4 => decodeF w
  | _ => .error (.unimplementedOpcode w)

/-- Decode the first instruction of a run of bytes and give the bytes after it: always two bytes (R70), the
high byte first (R56). -/
def decodeBytes : List Byte → Except DecodeError (Instr × List Byte)
  | hi :: lo :: rest =>
    match decode (joinBytes hi lo) with
    | .ok i => .ok (i, rest)
    | .error e => .error e
  | _ => .error .truncated

/-! ### Encoding -/

/-- Format NNN of R71: `oooo nnnn nnnn nnnn`. -/
def wordNNN (o : Nibble) (nnn : Imm12) : Word := o ++ nnn

/-- Format XNN of R71: `oooo xxxx nnnn nnnn`; format X is the same with a fixed low byte. -/
def wordXNN (o : Nibble) (x : Reg) (nn : Byte) : Word := o ++ (regNibble x ++ nn)

/-- Format XYN of R71: `oooo xxxx yyyy nnnn`; format XY is the same with a fixed last nibble. -/
def wordXYN (o : Nibble) (x y : Reg) (n : Nibble) : Word := o ++ (regNibble x ++ (regNibble y ++ n))

/-- The word of an instruction (R71, R73, R78). -/
def encode : Instr → Word
  | .nop => 0x0000
  | .cls => 0x00E0
  | .ret => 0x00EE
  | .jp nnn => wordNNN 0x1 nnn
  | .call nnn => wordNNN 0x2 nnn
  | .seImm x nn => wordXNN 0x3 x nn
  | .sneImm x nn => wordXNN 0x4 x nn
  | .seReg x y => wordXYN 0x5 x y 0x0
  | .ldImm x nn => wordXNN 0x6 x nn
  | .addImm x nn => wordXNN 0x7 x nn
  | .ldReg x y => wordXYN 0x8 x y 0x0
  | .orReg x y => wordXYN 0x8 x y 0x1
  | .andReg x y => wordXYN 0x8 x y 0x2
  | .xorReg x y => wordXYN 0x8 x y 0x3
  | .addReg x y => wordXYN 0x8 x y 0x4
  | .subReg x y => wordXYN 0x8 x y 0x5
  | .shr x y => wordXYN 0x8 x y 0x6
  | .subnReg x y => wordXYN 0x8 x y 0x7
  | .shl x y => wordXYN 0x8 x y 0xE
  | .sneReg x y => wordXYN 0x9 x y 0x0
  | .ldI nnn => wordNNN 0xA nnn
  | .jpV0 nnn => wordNNN 0xB nnn
  | .rnd x nn => wordXNN 0xC x nn
  | .drw x y n => wordXYN 0xD x y n
  | .skp x => wordXNN 0xE x 0x9E
  | .sknp x => wordXNN 0xE x 0xA1
  | .ldVxDT x => wordXNN 0xF x 0x07
  | .ldVxK x => wordXNN 0xF x 0x0A
  | .ldDTVx x => wordXNN 0xF x 0x15
  | .ldSTVx x => wordXNN 0xF x 0x18
  | .addI x => wordXNN 0xF x 0x1E
  | .ldF x => wordXNN 0xF x 0x29
  | .ldB x => wordXNN 0xF x 0x33
  | .storeRegs x => wordXNN 0xF x 0x55
  | .loadRegs x => wordXNN 0xF x 0x65

/-- The bytes of an instruction as memory holds them: the high byte first (R56). -/
def encodeBytes (i : Instr) : List Byte := [highByte (encode i), lowByte (encode i)]

/-! ### The opcode table's numbering of bits -/

/-- The instruction word whose bits are `w`, of which the table gives `nbits` (the rest are 0): one 16-bit
word, bit 0 its least significant (R10, R70). -/
def tableWord (nbits w : Nat) : Word := BitVec.ofNat 16 (w % 2 ^ nbits)

/-- The instruction the decoder reads from the bytes of such a word, laid out as memory holds them (R56). -/
def decodeTableWord (nbits w : Nat) : Option Instr :=
  match decodeBytes [highByte (tableWord nbits w), lowByte (tableWord nbits w)] with
  | .ok (i, _) => some i
  | .error _ => none

end Sys2Proof
end

