-- ==== Sys2Proof/Config.lean ====
section
/-! DEFINITION. What the implementation fixes (spec/00_scope.md R7) and the values the spec leaves to
parameters (R8). -/

namespace Sys2Proof.Config

open Sys2Proof

/-- MEM_SIZE: 4096 bytes (R7). -/
abbrev memSize : Nat := 4096

/-- PROG_BASE: where a program is loaded and where `pc` starts (R7). -/
abbrev progBase : Nat := 0x200

/-- MAX_ROM: the longest image `load` takes (R7). -/
abbrev maxRom : Nat := 3584

/-- FONT_SIZE: 16 glyphs of 5 bytes from address 0 (R7). -/
abbrev fontSize : Nat := 80

/-- The parameter `FONT` (R8): the 80 font bytes, glyph `d` at `5 * d` (R162). The bytes a machine starts with
are `Sys2Proof.Machine.defaultFont`. -/
abbrev Font := Vector Byte 80

/-- The random-byte provider `RNG` of `Cxnn` (R8, R39, R141): the byte of the n-th draw, any 8-bit value.
A free value: it has no body, so nothing can be proved of what it is. DESIGN CHOICE (the form), safe:
notes/assumptions/2. -/
opaque randomByte : Nat → Byte

end Sys2Proof.Config
end

