-- ==== Sys2Proof/Machine/State.lean ====
section
/-! DEFINITION. The state of the core as plain data (spec/10_state.md R20), its value after reset (R40), and the
reasons a step could stop. -/

namespace Sys2Proof.Machine

open Sys2Proof

/-- `MEM` (R33) as a list of cells, addresses rising, no entry equal to what an unlisted address reads as
(`Memory.wf`). -/
abbrev Memory := List Host.Cell

/-- `DISP` (R34): 32 rows of 64 pixels, row-major, true = lit. -/
abbrev Display := Vector (Vector Bool 64) 32

/-- The fault kinds (spec/60_exceptions.md R221). -/
inductive FaultKind where
  /-- Code 1: the fetched word matches no row of R73 (R226). -/
  | unimplementedOpcode
  /-- Code 2: a call with 16 entries already pushed (R224). -/
  | stackOverflow
  /-- Code 3: a return with an empty stack (R224). -/
  | stackUnderflow
  /-- Code 4: an index-relative address is 4096 or more (R225). -/
  | memoryOutOfRange
  /-- Code 5: a fetch at pc of 4095 or more (R227). -/
  | fetchOutOfRange
  /-- Code 6: a key number of 16 or more (R228). -/
  | keyIndexOutOfRange
  deriving DecidableEq, Repr

/-- The record of a fault (R36, R222): `opcode` is absent for `FetchOutOfRange`, `dataAddress` is present for
`MemoryOutOfRange` only. -/
structure FaultRecord where
  kind : FaultKind
  opcode : Option Word
  address : Word
  dataAddress : Option Word
  deriving DecidableEq, Repr

/-- The architectural state (R20), each component under the spec's own name, and after it the model's own two
fields, which stand for the parameters of R8: no statement rests on their values. -/
structure State where
  /-- V0 to VF (R21). -/
  V : Vector Byte 16
  /-- The program counter (R24). -/
  pc : Word
  /-- The index register (R28). -/
  I : Word
  /-- The call stack (R29). -/
  stack : Vector Word 16
  /-- The number of occupied stack entries, 0 to 16 (R30). -/
  sp : Fin 17
  /-- The delay timer (R32). -/
  DT : Byte
  /-- The sound timer (R32). -/
  ST : Byte
  /-- The memory (R33). -/
  mem : Memory
  /-- The display buffer (R34). -/
  display : Display
  /-- The keys, true = pressed (R35). -/
  keys : Vector Bool 16
  /-- The fault record, or none (R36); while it is not none the core is halted (R223). -/
  fault : Option FaultRecord
  /-- The model's own: the parameter FONT (R8, R162), which nothing changes. -/
  font : Config.Font
  /-- The model's own: how many random bytes were drawn (R39, R141), the argument of `Config.randomByte`. -/
  draws : Nat
  deriving DecidableEq, Repr

/-- Why a step stops with a fault: never. Every fault of the spec is recorded in `State.fault` and the machine
goes on to a next, halted state (R96, R97, R222), so this type has no constructor: nobody raises one. Safe:
notes/assumptions/14. -/
inductive Fault where
  deriving DecidableEq, Repr

/-- Why a step is refused. -/
inductive Refusal where
  /-- An instruction without a meaning yet, raised by `exec`'s own arms only; no arm raises it in this model.
  Safe: the machine stops where the hardware goes on. -/
  | notModelled (mnemonic : String)
  deriving DecidableEq, Repr

/-- The state right after `new` and after every `reset` (R40): every component as R40 gives it. MEM lists nothing,
because an unlisted address reads as its reset content. `font` is the default of D13 (PRESUMED,
notes/assumptions/1) and `draws` is 0 (DESIGN CHOICE, notes/assumptions/2). -/
def State.reset : State where
  V := Vector.replicate 16 0
  pc := 0x200
  I := 0
  stack := Vector.replicate 16 0
  sp := 0
  DT := 0
  ST := 0
  mem := []
  display := Vector.replicate 32 (Vector.replicate 64 false)
  keys := Vector.replicate 16 false
  fault := none
  font := defaultFont
  draws := 0

end Sys2Proof.Machine
end

