-- ==== Sys2Proof/Machine/Ops.lean ====
section
/-! DEFINITION. The named operations over registers, memory, stack and display, fetching, and taking a fault. -/

namespace Sys2Proof.Machine

open Sys2Proof

/-- What a step and an instruction's meaning answer. -/
abbrev Result := Host.Outcome State Fault Refusal

/-! ### Memory -/

/-- What an address that MEM does not list reads as: its content at reset (R40, R51), FONT at 0 to 79 and 0
elsewhere. An address of 4096 or more is no memory address; every caller checks first (R13, R54), so the 0 given
there is never read (notes/assumptions/7). -/
def resetByte (font : Config.Font) (a : Nat) : Byte := if h : a < 80 then font[a] else 0

/-- The byte an address lists, if any. -/
def Memory.lookup : Memory → Nat → Option Byte
  | [], _ => none
  | (k, b) :: m, a => if a = k then some b else Memory.lookup m a

/-- List a byte at an address, in its place in the rising order, over what the address listed. -/
def Memory.insert : Memory → Nat → Byte → Memory
  | [], a, b => [(a, b)]
  | (k, c) :: m, a, b =>
    if a < k then (a, b) :: (k, c) :: m else if a = k then (a, b) :: m else (k, c) :: Memory.insert m a b

/-- List nothing at an address. -/
def Memory.erase : Memory → Nat → Memory
  | [], _ => []
  | (k, c) :: m, a => if a = k then Memory.erase m a else (k, c) :: Memory.erase m a

/-- The canonical form: addresses below 4096 and strictly rising, and no entry equal to what an unlisted address
reads as. -/
def Memory.wf (font : Config.Font) : Memory → Bool
  | [] => true
  | (k, b) :: m =>
    decide (k < Config.memSize) && !(b == resetByte font k) && m.all (fun c => decide (k < c.1)) && Memory.wf font m

/-- `MEM[a]`, the one-byte `MemRead` (R13). -/
def State.readByte (s : State) (a : Nat) : Byte :=
  match Memory.lookup s.mem a with
  | some b => b
  | none => resetByte s.font a

/-- Replace all of MEM's list. -/
def State.setMem (s : State) (m : Memory) : State := { s with mem := m }

/-- `MEM[a] <- b`, the one-byte `MemWrite` (R13), in canonical form. -/
def State.writeByte (s : State) (a : Nat) (b : Byte) : State :=
  s.setMem (if b = resetByte s.font a then Memory.erase s.mem a else Memory.insert s.mem a b)

/-- Store bytes at consecutive rising addresses (R59). -/
def State.storeBytes (s : State) (a : Nat) : List Byte → State
  | [] => s
  | b :: bs => (s.writeByte a b).storeBytes (a + 1) bs

/-- `MemRead(a, 2)`: the big-endian word at `a` (R13, R56). -/
def State.readWord (s : State) (a : Nat) : Word := joinBytes (s.readByte a) (s.readByte (a + 1))

/-! ### Registers -/

/-- `V[r] <- b` (R12). -/
def State.setV (s : State) (r : Reg) (b : Byte) : State := { s with V := s.V.set r b }

/-- `pc <- w` (R12). -/
def State.setPc (s : State) (w : Word) : State := { s with pc := w }

/-- `I <- w` (R12). -/
def State.setI (s : State) (w : Word) : State := { s with I := w }

/-- `DT <- b` (R12). -/
def State.setDT (s : State) (b : Byte) : State := { s with DT := b }

/-- `ST <- b` (R12). -/
def State.setST (s : State) (b : Byte) : State := { s with ST := b }

/-- Replace the display buffer. -/
def State.setDisplay (s : State) (d : Display) : State := { s with display := d }

/-- `KEYS[k] <- b` (R12, R245). -/
def State.setKey (s : State) (k : Reg) (b : Bool) : State := { s with keys := s.keys.set k b }

/-- Count one random draw (R141). -/
def State.countDraw (s : State) : State := { s with draws := s.draws + 1 }

/-- `skip` (R14, R111): 2 more, on the pc that fetch has advanced. -/
def State.skip (s : State) : State := s.setPc (s.pc + 2)

/-- `skip` when the condition holds (R116 to R119, R200, R201). -/
def State.skipIf (s : State) (c : Bool) : State := if c then s.skip else s

/-- `pc <- pc - 2` (R203): the instruction is executed again on the next tick. -/
def State.rewind (s : State) : State := s.setPc (s.pc - 2)

/-! ### Call stack -/

/-- A push (R30, R114): write `STACK[sp]`, then increment sp; none when 16 entries are occupied. -/
def State.push (s : State) (w : Word) : Option State :=
  if h : s.sp.val < 16 then
    some { s with stack := s.stack.set s.sp.val w, sp := ⟨s.sp.val + 1, by omega⟩ }
  else none

/-- A pop (R30, R115): decrement sp, then read `STACK[sp]`; none when the stack is empty. The entry keeps its
value (R31, R115; notes/assumptions/6). -/
def State.pop (s : State) : Option (Word × State) :=
  if h : 0 < s.sp.val then
    some (s.stack[s.sp.val - 1]'(by omega), { s with sp := ⟨s.sp.val - 1, by omega⟩ })
  else none

/-! ### Display -/

/-- `DISP[c, r]` (R12, R34). -/
def Display.pixel (d : Display) (c : Fin 64) (r : Fin 32) : Bool := d[r][c]

/-- `DISP[c, r] <- b` (R12, R34). -/
def Display.setPixel (d : Display) (c : Fin 64) (r : Fin 32) (b : Bool) : Display := d.set r (d[r].set c b)

/-- Every pixel unlit (R40, R181). -/
def Display.blank : Display := Vector.replicate 32 (Vector.replicate 64 false)

/-! ### Faults -/

/-- The numeric code of a fault kind (R221). -/
def FaultKind.code : FaultKind → Nat
  | .unimplementedOpcode => 1
  | .stackOverflow => 2
  | .stackUnderflow => 3
  | .memoryOutOfRange => 4
  | .fetchOutOfRange => 5
  | .keyIndexOutOfRange => 6

/-- TAKING A FAULT (R96, R222, R232), the one shared operation: `FAULT` becomes the record and `pc` is
`pc_inst`, the address the instruction was (or could not be) fetched from. It saves nothing else, changes no
mode, pushes nothing and transfers control nowhere. -/
def State.takeFault (s : State) (kind : FaultKind) (opcode : Option Word) (pcInst : Word) (dataAddress : Option Word) :
    State :=
  { s with
    pc := pcInst
    fault := some { kind := kind, opcode := opcode, address := pcInst, dataAddress := dataAddress } }

/-- `raise Fault(kind, {opcode, address: pc_inst, data_address})` of an instruction rule (R14), on the state after
fetch, where `pc_inst` is `pc - 2` (R25, R92; notes/assumptions/3): a NEXT state, the one before the tick with
FAULT set. There is no return from it but `reset` (R233: `State.resetCore`, below). -/
def raise (kind : FaultKind) (op : Word) (dataAddress : Option Word) (s : State) : Result :=
  .next (s.takeFault kind (some op) (s.pc - 2) dataAddress)

/-- `new()` (R260): the reset state, with the given FONT. -/
def State.newCore (font : Config.Font) : State := { State.reset with font := font }

/-- `reset()` (R261): every component of R20 to its value in R40. FONT is a parameter, and the random-byte
provider is not affected (R39; notes/assumptions/11). -/
def State.resetCore (s : State) : State := { State.newCore s.font with draws := s.draws }

/-! ### The tick's fetch and decode -/

/-- The core is halted (R223). -/
def State.halted (s : State) : Bool := s.fault.isSome

/-- The fetch check (R91): `pc + 1` is a memory address, that is, `pc` is below 4095. -/
def State.fetchable (s : State) : Bool := decide (s.pc.toNat < Config.memSize - 1)

/-- Taking `FetchOutOfRange` (R91, R222, R227): no opcode, `address = pc`. -/
def State.fetchFault (s : State) : State := s.takeFault .fetchOutOfRange none s.pc none

/-- The fetched word `op = MemRead(pc, 2)` (R92). -/
def State.fetchWord (s : State) : Word := s.readWord s.pc.toNat

/-- The state after fetch: `pc <- pc + 2` (R92). -/
def State.afterFetch (s : State) : State := s.setPc (s.pc + 2)

/-- Taking `UnimplementedOpcode` for the word `op` (R95, R226), on the state after fetch. -/
def unimplemented (op : Word) (s : State) : Result := raise .unimplementedOpcode op none s

/-- The state in which the next step fetches the word `w` (see `State.withFetchWord`): the word's two bytes at `pc`, high
byte first (R56). Where no fetch could happen, what stands in its way is put right: a recorded fault is cleared,
and a pc no word can be fetched from becomes 0x200. -/
def State.placeWord (s : State) (w : Word) : State :=
  let p := if s.fetchable then s.pc else 0x200
  { s.storeBytes p.toNat [highByte w, lowByte w] with pc := p, fault := none }

end Sys2Proof.Machine
end

