-- ==== Sys2Proof/Machine/Flags.lean ====
section
/-! DEFINITION. The flag computations (spec/42_alu.md R136 to R140, R143) and the write of the flag register VF,
which is the instruction's last write (spec/10_state.md R22). -/

namespace Sys2Proof.Machine

open Sys2Proof

/-- A flag's value: 1 or 0. -/
def flagByte (c : Bool) : Byte := if c then 1 else 0

/-- The carry of `a + b`: 1 exactly when the exact sum is 256 or more (R136, R143). -/
def carryFlag (a b : Byte) : Byte := flagByte (decide (256 ≤ a.toNat + b.toNat))

/-- The no-borrow flag of `a - b`: 0 exactly when `a < b` (R137, R139, R143). -/
def noBorrowFlag (a b : Byte) : Byte := if a.toNat < b.toNat then 0 else 1

/-- The bit a right shift shifts out: bit 0 (R138). -/
def shiftOutRight (a : Byte) : Byte := a &&& 1

/-- The bit a left shift shifts out: bit 7 (R140). -/
def shiftOutLeft (a : Byte) : Byte := (a >>> 7) &&& 1

/-- Write a result to `V[x]` and then the flag to VF (R22): with `x = 0xF` the flag stays. -/
def State.setResult (s : State) (x : Reg) (r flag : Byte) : State := (s.setV x r).setV VF flag

end Sys2Proof.Machine
end

