-- ==== Sys2Proof/Machine/Alu.lean ====
section
/-! DEFINITION. Register loads and the 8-bit arithmetic-logic unit (spec/42_alu.md). Operands are read before any
write, and VF is written last. -/

namespace Sys2Proof.Machine

open Sys2Proof

/-- `6xnn` LD Vx, nn (R130). -/
def execLdImm (x : Reg) (nn : Byte) (s : State) : Result := .next (s.setV x nn)

/-- `7xnn` ADD Vx, nn (R131): modulo 256, no flag. -/
def execAddImm (x : Reg) (nn : Byte) (s : State) : Result := .next (s.setV x (s.V[x] + nn))

/-- `8xy0` LD Vx, Vy (R132). -/
def execLdReg (x y : Reg) (s : State) : Result := .next (s.setV x s.V[y])

/-- `8xy1` OR Vx, Vy (R133). -/
def execOrReg (x y : Reg) (s : State) : Result := .next (s.setV x (s.V[x] ||| s.V[y]))

/-- `8xy2` AND Vx, Vy (R134). -/
def execAndReg (x y : Reg) (s : State) : Result := .next (s.setV x (s.V[x] &&& s.V[y]))

/-- `8xy3` XOR Vx, Vy (R135). -/
def execXorReg (x y : Reg) (s : State) : Result := .next (s.setV x (s.V[x] ^^^ s.V[y]))

/-- `8xy4` ADD Vx, Vy (R136). -/
def execAddReg (x y : Reg) (s : State) : Result :=
  .next (s.setResult x (s.V[x] + s.V[y]) (carryFlag s.V[x] s.V[y]))

/-- `8xy5` SUB Vx, Vy (R137). -/
def execSubReg (x y : Reg) (s : State) : Result :=
  .next (s.setResult x (s.V[x] - s.V[y]) (noBorrowFlag s.V[x] s.V[y]))

/-- `8xy6` SHR Vx (R138): `y` is not read. -/
def execShr (x _y : Reg) (s : State) : Result := .next (s.setResult x (s.V[x] >>> 1) (shiftOutRight s.V[x]))

/-- `8xy7` SUBN Vx, Vy (R139). -/
def execSubnReg (x y : Reg) (s : State) : Result :=
  .next (s.setResult x (s.V[y] - s.V[x]) (noBorrowFlag s.V[y] s.V[x]))

/-- `8xyE` SHL Vx (R140): `y` is not read. -/
def execShl (x _y : Reg) (s : State) : Result := .next (s.setResult x (s.V[x] <<< 1) (shiftOutLeft s.V[x]))

/-- `Cxnn` RND Vx, nn (R141): a fresh free draw, masked. -/
def execRnd (x : Reg) (nn : Byte) (s : State) : Result :=
  .next ((s.setV x (Config.randomByte s.draws &&& nn)).countDraw)

end Sys2Proof.Machine
end

