-- ==== Sys2Proof/Machine/Operands.lean ====
section
/-! DEFINITION. The operand forms (spec/30_encoding.md R72), index-relative addressing with its bounds check
(spec/20_memory.md R54), the register ranges of the block transfers, and key operands. -/

namespace Sys2Proof.Machine

open Sys2Proof

/-- `zext_16(nnn)` (R72). -/
def zext12 (nnn : Imm12) : Word := nnn.setWidth 16

/-- `zext_16(b)` of a byte (R11). -/
def zext8 (b : Byte) : Word := b.setWidth 16

/-- The exact address `I + k`, with no 16-bit wrap-around (R54). -/
def State.indexAddr (s : State) (k : Nat) : Nat := s.I.toNat + k

/-- Every address of the `n` consecutive ones from `I` is a memory address (R54); with `n = 0` there is none. -/
def State.accessible (s : State) (n : Nat) : Bool := decide (n = 0) || decide (s.indexAddr n ≤ Config.memSize)

/-- The lowest out-of-range address, `max(I, 4096)` (R54). -/
def State.lowestOutside (s : State) : Word := BitVec.ofNat 16 (max s.I.toNat Config.memSize)

/-- The bounds check of R54 over the `n` bytes from `I`, before any access or write: `MemoryOutOfRange`, or the
state the instruction leaves. -/
def checked (op : Word) (n : Nat) (s t : State) : Result :=
  if s.accessible n then .next t else raise .memoryOutOfRange op (some s.lowestOutside) s

/-- The registers `V[0]` to `V[x]` in rising order (R165, R166). -/
def regsUpTo (x : Reg) : List Reg := (List.finRange 16).take (x.val + 1)

/-- The values of `V[0]` to `V[x]` in rising order (R165). -/
def State.valuesUpTo (s : State) (x : Reg) : List Byte := (regsUpTo x).map (fun k => s.V[k])

/-- `V[k] <- MemRead(I + k, 1)` for each register of the list in turn (R59, R166). -/
def State.loadList (s : State) : List Reg → State
  | [] => s
  | k :: ks => (s.setV k (s.readByte (s.indexAddr k.val))).loadList ks

/-- The decimal digits of a byte, hundreds, tens, ones (R164). -/
def bcdDigits (v : Byte) : List Byte :=
  [BitVec.ofNat 8 (v.toNat / 100), BitVec.ofNat 8 (v.toNat / 10 % 10), BitVec.ofNat 8 (v.toNat % 10)]

/-- The key a register's value names: none when it is 16 or more (R200, R201, R228). -/
def keyOf (v : Byte) : Option Reg := if h : v.toNat < 16 then some ⟨v.toNat, h⟩ else none

/-- The least key that is pressed, in index order (R203). -/
def lowestKey (keys : Vector Bool 16) : Option Reg := (List.finRange 16).find? (fun k => keys[k])

end Sys2Proof.Machine
end

