-- ==== Sys2Proof/Machine/Flow.lean ====
section
/-! DEFINITION. Control flow (spec/41_flow.md): no-op, jumps, call and return, skips. Every meaning acts on the
state after fetch, where `pc` is `pc_inst + 2` (R25, R94). -/

namespace Sys2Proof.Machine

open Sys2Proof

/-- `0000` NOP (R110): nothing but the fetch advance. -/
def execNop (s : State) : Result := .next s

/-- `1nnn` JP nnn (R112). -/
def execJp (nnn : Imm12) (s : State) : Result := .next (s.setPc (zext12 nnn))

/-- `2nnn` CALL nnn (R114): push the post-fetch pc, then jump; `StackOverflow` when 16 calls are nested. -/
def execCall (nnn : Imm12) (s : State) : Result :=
  match s.push s.pc with
  | some t => .next (t.setPc (zext12 nnn))
  | none => raise .stackOverflow (encode (.call nnn)) none s

/-- `00EE` RET (R115): pop into pc; `StackUnderflow` when the stack is empty. -/
def execRet (s : State) : Result :=
  match s.pop with
  | some (w, t) => .next (t.setPc w)
  | none => raise .stackUnderflow (encode .ret) none s

/-- `3xnn` SE Vx, nn (R116). -/
def execSeImm (x : Reg) (nn : Byte) (s : State) : Result := .next (s.skipIf (s.V[x] == nn))

/-- `4xnn` SNE Vx, nn (R117). -/
def execSneImm (x : Reg) (nn : Byte) (s : State) : Result := .next (s.skipIf (s.V[x] != nn))

/-- `5xy0` SE Vx, Vy (R118). -/
def execSeReg (x y : Reg) (s : State) : Result := .next (s.skipIf (s.V[x] == s.V[y]))

/-- `9xy0` SNE Vx, Vy (R119). -/
def execSneReg (x y : Reg) (s : State) : Result := .next (s.skipIf (s.V[x] != s.V[y]))

/-- `Bnnn` JP V0, nnn (R120): the sum is at most 0x10FE, so 16 bits hold it exactly. -/
def execJpV0 (nnn : Imm12) (s : State) : Result := .next (s.setPc (zext8 s.V[0] + zext12 nnn))

end Sys2Proof.Machine
end

