-- ==== Sys2Proof/Machine/Index.lean ====
section
/-! DEFINITION. The index register, font addresses, the decimal store and the block transfers
(spec/43_index_memory.md). -/

namespace Sys2Proof.Machine

open Sys2Proof

/-- `Annn` LD I, nnn (R160). -/
def execLdI (nnn : Imm12) (s : State) : Result := .next (s.setI (zext12 nnn))

/-- `Fx1E` ADD I, Vx (R161): modulo 65536, no flag. -/
def execAddI (x : Reg) (s : State) : Result := .next (s.setI (s.I + zext8 s.V[x]))

/-- `Fx29` LD F, Vx (R163): `V[x] * 5`, at most 1275, `V[x]` not masked. -/
def execLdF (x : Reg) (s : State) : Result := .next (s.setI (zext8 s.V[x] * 5))

/-- `Fx33` LD B, Vx (R164): three decimal digits from `I`, checked before any write. -/
def execLdB (x : Reg) (s : State) : Result :=
  checked (encode (.ldB x)) 3 s (s.storeBytes (s.indexAddr 0) (bcdDigits s.V[x]))

/-- `Fx55` LD [I], Vx (R165): `V[0]` to `V[x]` from `I`, checked before any write; `I` unchanged. -/
def execStoreRegs (x : Reg) (s : State) : Result :=
  checked (encode (.storeRegs x)) (x.val + 1) s (s.storeBytes (s.indexAddr 0) (s.valuesUpTo x))

/-- `Fx65` LD Vx, [I] (R166): `V[0]` to `V[x]` from memory at `I`, checked before any write; `I` unchanged. -/
def execLoadRegs (x : Reg) (s : State) : Result :=
  checked (encode (.loadRegs x)) (x.val + 1) s (s.loadList (regsUpTo x))

end Sys2Proof.Machine
end

