-- ==== Sys2Proof/Machine/Input.lean ====
section
/-! DEFINITION. Keypad and timer instructions (spec/45_keys_timers.md). -/

namespace Sys2Proof.Machine

open Sys2Proof

/-- `Ex9E` SKP Vx (R200): skip if the key is pressed; `KeyIndexOutOfRange` when `V[x]` names no key. -/
def execSkp (x : Reg) (s : State) : Result :=
  match keyOf s.V[x] with
  | some k => .next (s.skipIf s.keys[k])
  | none => raise .keyIndexOutOfRange (encode (.skp x)) none s

/-- `ExA1` SKNP Vx (R201): skip if the key is not pressed; `KeyIndexOutOfRange` when `V[x]` names no key. -/
def execSknp (x : Reg) (s : State) : Result :=
  match keyOf s.V[x] with
  | some k => .next (s.skipIf (!s.keys[k]))
  | none => raise .keyIndexOutOfRange (encode (.sknp x)) none s

/-- `Fx07` LD Vx, DT (R202). -/
def execLdVxDT (x : Reg) (s : State) : Result := .next (s.setV x s.DT)

/-- `Fx0A` LD Vx, K (R203): the least pressed key's number, or wait one more tick. -/
def execLdVxK (x : Reg) (s : State) : Result :=
  match lowestKey s.keys with
  | some k => .next (s.setV x (BitVec.ofNat 8 k.val))
  | none => .next s.rewind

/-- `Fx15` LD DT, Vx (R204). -/
def execLdDTVx (x : Reg) (s : State) : Result := .next (s.setDT s.V[x])

/-- `Fx18` LD ST, Vx (R205). -/
def execLdSTVx (x : Reg) (s : State) : Result := .next (s.setST s.V[x])

end Sys2Proof.Machine
end

