-- ==== Sys2Proof/Machine/Screen.lean ====
section
/-! DEFINITION. Display clear and the XOR sprite renderer (spec/44_display.md). -/

namespace Sys2Proof.Machine

open Sys2Proof

/-- Bit `7 - col` of a sprite byte, the most significant bit first (R182). -/
def spriteBit (b : Byte) (col : Nat) : Bool := b.getLsbD (7 - col)

/-- The display column of a sprite's column: `(ox + col) mod 64` (R182). -/
def wrapCol (ox col : Nat) : Fin 64 := Fin.ofNat 64 (ox + col)

/-- The display row of a sprite's row: `(oy + row) mod 32` (R182). -/
def wrapRow (oy row : Nat) : Fin 32 := Fin.ofNat 32 (oy + row)

/-- Invert one pixel, and note a collision if it was lit before (R182). -/
def flipPixel (c : Fin 64) (r : Fin 32) (acc : Display × Bool) : Display × Bool :=
  (acc.1.setPixel c r (!acc.1.pixel c r), acc.2 || acc.1.pixel c r)

/-- The inner loop of R182 over the columns listed: each one bit of the row's byte inverts its pixel, a zero bit leaves it. -/
def renderCols (b : Byte) (ox : Nat) (r : Fin 32) : List Nat → Display × Bool → Display × Bool
  | [], acc => acc
  | col :: cols, acc =>
    renderCols b ox r cols (if spriteBit b col then flipPixel (wrapCol ox col) r acc else acc)

/-- The outer loop of R182 over the rows listed; `rowByte row` is the byte `MEM[I + row]`. -/
def renderRows (rowByte : Nat → Byte) (ox oy : Nat) : List Nat → Display × Bool → Display × Bool
  | [], acc => acc
  | row :: rows, acc =>
    renderRows rowByte ox oy rows (renderCols (rowByte row) ox (wrapRow oy row) (List.range 8) acc)

/-- `render(ox, oy, h)` of R182: the display after the draw, and whether any lit pixel was turned unlit. -/
def render (rowByte : Nat → Byte) (ox oy h : Nat) (d : Display) : Display × Bool :=
  renderRows rowByte ox oy (List.range h) (d, false)

/-- The draw of `Dxyn` in a state: origin `V[x]`, `V[y]`, `n` rows from `I` (R183). -/
def State.sprite (s : State) (x y : Reg) (n : Nibble) : Display × Bool :=
  render (fun row => s.readByte (s.indexAddr row)) s.V[x].toNat s.V[y].toNat n.toNat s.display

/-- `00E0` CLS (R181). -/
def execCls (s : State) : Result := .next (s.setDisplay Display.blank)

/-- `Dxyn` DRW Vx, Vy, n (R183): checked before any pixel changes; VF is written last. -/
def execDrw (x y : Reg) (n : Nibble) (s : State) : Result :=
  checked (encode (.drw x y n)) n.toNat s
    ((s.setDisplay (s.sprite x y n).1).setV VF (flagByte (s.sprite x y n).2))

end Sys2Proof.Machine
end

