-- ==== Sys2Proof/Machine/Step.lean ====
section
/-! DEFINITION. One step of the machine: the `tick` command (spec/40_execution_cycle.md R98, R99). The host's other
commands are in Sys2Proof/Machine/Commands.lean. -/

namespace Sys2Proof.Machine

open Sys2Proof

/-- `tick` (R98), its checks in the order of R99: halted, the fetch check, decode, then the instruction's own
rule on the state after fetch. -/
def step (s : State) : Host.Outcome State Fault Refusal :=
  if s.halted then .next s
  else if s.fetchable then
    match decode s.fetchWord with
    | .ok i => exec i s.afterFetch
    | .error _ => unimplemented s.fetchWord s.afterFetch
  else .next s.fetchFault

/-- `s` with the instruction whose bits are `w` (numbered as the opcode table numbers them) where `step` fetches
its next instruction. It stands for the host's `load` (notes/assumptions/8). -/
def State.withFetchWord (s : State) (nbits w : Nat) : State := s.placeWord (tableWord nbits w)

end Sys2Proof.Machine
end

