-- ==== Sys2Proof/Machine/Commands.lean ====
section
/-! DEFINITION. The host-facing commands (spec/60_exceptions.md R247): each is one atomic step of the core (spec/40_execution_cycle.md
R90). `tick` is `step`. -/

namespace Sys2Proof.Machine

open Sys2Proof

/-- The commands of R247. A key index is any natural number, of which 0 to 15 are keys (R245; notes/assumptions/12). -/
inductive Command where
  /-- Construct a core (R260). -/
  | new
  /-- R261. -/
  | reset
  /-- Copy a ROM image to 0x200 (R262, R263). -/
  | load (rom : List Byte)
  /-- R245. -/
  | keyPress (index : Nat) (pressed : Bool)
  /-- One fetch-decode-execute step (R98). -/
  | tick
  /-- Decrement the timers once (R240). -/
  | tickTimers
  /-- R246. -/
  | getDisplay
  /-- Read the sound timer (R243). -/
  | readST
  /-- Read the fault record (R36). -/
  | readFault
  deriving DecidableEq, Repr

/-- What a command reports to the host (R101, R229, R247). -/
inductive Response where
  /-- A command with nothing to report, or its success. -/
  | ok
  /-- `load` of more than 3584 bytes (R263). -/
  | loadOverflow
  /-- `key_press` with an index outside 0 to 15 (R245). -/
  | invalidKeyIndex
  /-- A tick that raised no fault (R101). -/
  | completed
  /-- A tick that raised this fault, or found it recorded (R97, R101). -/
  | faulted (r : FaultRecord)
  /-- The display (R246). -/
  | display (d : Display)
  /-- The sound timer (R243). -/
  | soundTimer (b : Byte)
  /-- The fault record (R36). -/
  | faultRecord (f : Option FaultRecord)
  deriving DecidableEq, Repr

/-- `load(rom)` (R262, R263): the image's bytes from 0x200 and no other state; an image of more than 3584 bytes is
rejected before copying. -/
def State.load (s : State) (rom : List Byte) : State × Response :=
  if rom.length ≤ Config.maxRom then (s.storeBytes Config.progBase rom, .ok) else (s, .loadOverflow)

/-- `key_press(index, pressed)` (R245). -/
def State.keyPress (s : State) (index : Nat) (pressed : Bool) : State × Response :=
  if h : index < 16 then (s.setKey ⟨index, h⟩ pressed, .ok) else (s, .invalidKeyIndex)

/-- A timer's decrement: by 1 if greater than 0 (R240). -/
def decrement (b : Byte) : Byte := if 0 < b.toNat then b - 1 else b

/-- `tick_timers()` (R240), halted or not (R241). -/
def State.tickTimers (s : State) : State := (s.setDT (decrement s.DT)).setST (decrement s.ST)

/-- The signal point of the sound timer (R242): the next `tick_timers` takes ST from 1 to 0. The core itself does
no more than expose ST (R243). -/
def State.atSoundSignal (s : State) : Bool := s.ST == 1

/-- What a tick reports (R97, R101), from the state it leaves. -/
def State.tickReport (s : State) : Response :=
  match s.fault with
  | none => .completed
  | some r => .faulted r

/-- One command as an atomic step (R90, R247): the state it leaves and what it reports. -/
def perform (c : Command) (s : State) : Host.Outcome (State × Response) Fault Refusal :=
  match c with
  | .new => .next (s.resetCore, .ok)
  | .reset => .next (s.resetCore, .ok)
  | .load rom => .next (s.load rom)
  | .keyPress index pressed => .next (s.keyPress index pressed)
  | .tick =>
    match step s with
    | .next t => .next (t, t.tickReport)
    | .fault e => .fault e
    | .refused e => .refused e
  | .tickTimers => .next (s.tickTimers, .ok)
  | .getDisplay => .next (s, .display s.display)
  | .readST => .next (s, .soundTimer s.ST)
  | .readFault => .next (s, .faultRecord s.fault)

/-- A run of commands, in the host's order (R90, R265); it ends at the first command that stops. -/
def performAll : List Command → State → Result
  | [], s => .next s
  | c :: cs, s =>
    match perform c s with
    | .next (t, _) => performAll cs t
    | .fault e => .fault e
    | .refused e => .refused e

/-- The display as one row-major list: pixel (c, r) is element `r * 64 + c` (R34). -/
def Display.flat (d : Display) : List Bool := (d.toList.map (fun row => row.toList)).flatten

end Sys2Proof.Machine
end

