-- ==== Sys2Proof/Safety.lean ====
section
/-! DEFINITION. The terms the claims are stated in: what a step leaves unchanged, what each instruction may change
and which fault it may raise, and the invariant of the machine. -/

namespace Sys2Proof.Machine

open Sys2Proof

/-! ### Frames -/

/-- The components of the state (R20), and the model's own two (`font`, `draws`). -/
inductive Component where
  | V | pc | I | stack | sp | DT | ST | mem | display | keys | fault | font | draws
  deriving DecidableEq, Repr

/-- A component is the same in both states; arrays and memory entry by entry, MEM through the read of one byte. -/
def Component.same (c : Component) (s t : State) : Prop :=
  match c with
  | .V => ∀ r : Reg, t.V[r] = s.V[r]
  | .pc => t.pc = s.pc
  | .I => t.I = s.I
  | .stack => ∀ j : Fin 16, t.stack[j] = s.stack[j]
  | .sp => t.sp = s.sp
  | .DT => t.DT = s.DT
  | .ST => t.ST = s.ST
  | .mem => ∀ a : Nat, t.readByte a = s.readByte a
  | .display => ∀ (c : Fin 64) (r : Fin 32), t.display.pixel c r = s.display.pixel c r
  | .keys => ∀ k : Reg, t.keys[k] = s.keys[k]
  | .fault => t.fault = s.fault
  | .font => t.font = s.font
  | .draws => t.draws = s.draws

/-- Every component but those listed is unchanged. -/
def OnlyChanges (cs : List Component) (s t : State) : Prop := ∀ c, c ∉ cs → c.same s t

/-- Every general register but those listed is unchanged. -/
def RegsSameBut (rs : List Reg) (s t : State) : Prop := ∀ r : Reg, r ∉ rs → t.V[r] = s.V[r]

/-- Every byte of memory but the `n` from `a` reads as before. -/
def MemSameOutside (a n : Nat) (s t : State) : Prop := ∀ b, ¬(a ≤ b ∧ b < a + n) → t.readByte b = s.readByte b

/-- Every stack entry but the one listed is unchanged. -/
def StackSameBut (j : Nat) (s t : State) : Prop := ∀ k : Fin 16, k.val ≠ j → t.stack[k] = s.stack[k]

/-! ### What an instruction may do -/

/-- What an instruction that raises no fault may change, on the state after fetch (R22, R23, R28 to R30, R32, R34,
R35, R53). -/
def mayChange : Instr → List Component
  | .nop => []
  | .cls => [.display]
  | .ret => [.pc, .sp]
  | .jp _ => [.pc]
  | .call _ => [.pc, .stack, .sp]
  | .seImm _ _ | .sneImm _ _ | .seReg _ _ | .sneReg _ _ => [.pc]
  | .ldImm _ _ | .addImm _ _ | .ldReg _ _ | .orReg _ _ | .andReg _ _ | .xorReg _ _ => [.V]
  | .addReg _ _ | .subReg _ _ | .shr _ _ | .subnReg _ _ | .shl _ _ => [.V]
  | .ldI _ => [.I]
  | .jpV0 _ => [.pc]
  | .rnd _ _ => [.V, .draws]
  | .drw _ _ _ => [.V, .display]
  | .skp _ | .sknp _ => [.pc]
  | .ldVxDT _ => [.V]
  | .ldVxK _ => [.V, .pc]
  | .ldDTVx _ => [.DT]
  | .ldSTVx _ => [.ST]
  | .addI _ | .ldF _ => [.I]
  | .ldB _ | .storeRegs _ => [.mem]
  | .loadRegs _ => [.V]

/-- The general registers an instruction may write (R22, R23). -/
def regsWritten : Instr → List Reg
  | .ldImm x _ | .addImm x _ | .rnd x _ => [x]
  | .ldReg x _ | .orReg x _ | .andReg x _ | .xorReg x _ => [x]
  | .addReg x _ | .subReg x _ | .shr x _ | .subnReg x _ | .shl x _ => [x, VF]
  | .drw _ _ _ => [VF]
  | .ldVxDT x | .ldVxK x => [x]
  | .loadRegs x => (List.finRange 16).filter (fun k => k ≤ x)
  | .nop | .cls | .ret | .jp _ | .call _ | .seImm _ _ | .sneImm _ _ | .seReg _ _ | .sneReg _ _ => []
  | .ldI _ | .jpV0 _ | .skp _ | .sknp _ | .ldDTVx _ | .ldSTVx _ | .addI _ | .ldF _ | .ldB _ | .storeRegs _ => []

/-- The one fault kind an instruction can raise, if any (R230). -/
def faultKind : Instr → Option FaultKind
  | .call _ => some .stackOverflow
  | .ret => some .stackUnderflow
  | .drw _ _ _ | .ldB _ | .storeRegs _ | .loadRegs _ => some .memoryOutOfRange
  | .skp _ | .sknp _ => some .keyIndexOutOfRange
  | .nop | .cls | .jp _ | .seImm _ _ | .sneImm _ _ | .seReg _ _ | .sneReg _ _ | .jpV0 _ | .ldI _ => none
  | .ldImm _ _ | .addImm _ _ | .ldReg _ _ | .orReg _ _ | .andReg _ _ | .xorReg _ _ | .rnd _ _ => none
  | .addReg _ _ | .subReg _ _ | .shr _ _ | .subnReg _ _ | .shl _ _ => none
  | .ldVxDT _ | .ldVxK _ | .ldDTVx _ | .ldSTVx _ | .addI _ | .ldF _ => none

/-! ### The reset state -/

/-- Every component of R20 has its value of R40, with the given FONT. -/
def AtReset (font : Config.Font) (t : State) : Prop :=
  (∀ r : Reg, t.V[r] = 0) ∧ t.pc = 0x200 ∧ t.I = 0 ∧ (∀ j : Fin 16, t.stack[j] = 0) ∧ t.sp = 0 ∧ t.DT = 0 ∧ t.ST = 0 ∧
  (∀ a : Fin 80, t.readByte a.val = font[a]) ∧ (∀ a : Nat, 80 ≤ a → a < 4096 → t.readByte a = 0) ∧
  (∀ (c : Fin 64) (r : Fin 32), t.display.pixel c r = false) ∧ (∀ k : Reg, t.keys[k] = false) ∧ t.fault = none

/-! ### The invariant -/

/-- A fault record that a tick at `pc` can have made (R36, R221, R222): its address is that pc, it has no opcode exactly when
nothing could be fetched, and a data address exactly for `MemoryOutOfRange`, always outside memory. -/
def FaultRecord.Fits (r : FaultRecord) (pc : Word) : Prop :=
  r.address = pc ∧
  (r.opcode = none ↔ r.kind = .fetchOutOfRange) ∧
  (r.kind = .fetchOutOfRange ↔ 4095 ≤ pc.toNat) ∧
  (r.dataAddress = none ↔ r.kind ≠ .memoryOutOfRange) ∧
  (∀ d : Word, r.dataAddress = some d → 4096 ≤ d.toNat)

/-- The invariant every command keeps: MEM has its canonical form, with every listed address below 4096; pc is at
most 0x10FE (R27); every stack entry is at most 0x1000, the largest value a call pushes (R27); and a recorded
fault is one that a tick at the present pc can have made. -/
def State.Inv (s : State) : Prop :=
  Memory.wf s.font s.mem = true ∧ s.pc.toNat ≤ 0x10FE ∧ (∀ j : Fin 16, s.stack[j].toNat ≤ 0x1000) ∧
  (∀ r : FaultRecord, s.fault = some r → r.Fits s.pc)

end Sys2Proof.Machine
end

