-- ==== Sys2Proof/Certificates/Slice0/Obligations.lean ====
section
/-! DEFINITION. The statements for the provers, from the spec's numbered rules, file by file. `exec i s` acts on the
state after fetch (R94), so `s.pc` is `pc_inst + 2` and `s.pc - 2` is `pc_inst`. -/

open Sys2Proof Sys2Proof.Machine

/-! ### Encoding (spec/30_encoding.md) -/

/-- Decoding the word of an instruction gives the instruction back, whatever its operands (R71, R73). -/
def Obligations.DecodeOfEncode : Prop := ∀ i : Instr, decode (encode i) = .ok i

/-- A word that decodes is the word of the instruction it decodes to: no bit of it is dropped (R71, R73). -/
def Obligations.EncodeOfDecode : Prop := ∀ (w : Word) (i : Instr), decode w = .ok i → encode i = w

/-- The number that an instruction's word is, from the layouts of R71 and the fixed nibbles of R73. -/
def Sys2Proof.wordNumber : Instr → Nat
  | .nop => 0x0000
  | .cls => 0x00E0
  | .ret => 0x00EE
  | .jp nnn => 0x1000 + nnn.toNat
  | .call nnn => 0x2000 + nnn.toNat
  | .seImm x nn => 0x3000 + 256 * x.val + nn.toNat
  | .sneImm x nn => 0x4000 + 256 * x.val + nn.toNat
  | .seReg x y => 0x5000 + 256 * x.val + 16 * y.val
  | .ldImm x nn => 0x6000 + 256 * x.val + nn.toNat
  | .addImm x nn => 0x7000 + 256 * x.val + nn.toNat
  | .ldReg x y => 0x8000 + 256 * x.val + 16 * y.val
  | .orReg x y => 0x8001 + 256 * x.val + 16 * y.val
  | .andReg x y => 0x8002 + 256 * x.val + 16 * y.val
  | .xorReg x y => 0x8003 + 256 * x.val + 16 * y.val
  | .addReg x y => 0x8004 + 256 * x.val + 16 * y.val
  | .subReg x y => 0x8005 + 256 * x.val + 16 * y.val
  | .shr x y => 0x8006 + 256 * x.val + 16 * y.val
  | .subnReg x y => 0x8007 + 256 * x.val + 16 * y.val
  | .shl x y => 0x800E + 256 * x.val + 16 * y.val
  | .sneReg x y => 0x9000 + 256 * x.val + 16 * y.val
  | .ldI nnn => 0xA000 + nnn.toNat
  | .jpV0 nnn => 0xB000 + nnn.toNat
  | .rnd x nn => 0xC000 + 256 * x.val + nn.toNat
  | .drw x y n => 0xD000 + 256 * x.val + 16 * y.val + n.toNat
  | .skp x => 0xE09E + 256 * x.val
  | .sknp x => 0xE0A1 + 256 * x.val
  | .ldVxDT x => 0xF007 + 256 * x.val
  | .ldVxK x => 0xF00A + 256 * x.val
  | .ldDTVx x => 0xF015 + 256 * x.val
  | .ldSTVx x => 0xF018 + 256 * x.val
  | .addI x => 0xF01E + 256 * x.val
  | .ldF x => 0xF029 + 256 * x.val
  | .ldB x => 0xF033 + 256 * x.val
  | .storeRegs x => 0xF055 + 256 * x.val
  | .loadRegs x => 0xF065 + 256 * x.val

/-- Every word that is an instruction's number decodes to that instruction: each field is read from its own place
(R71 to R73). -/
def Obligations.EveryFieldIsReadFromItsPlace : Prop :=
  ∀ (w : Word) (i : Instr), decode w = .ok i ↔ w.toNat = wordNumber i

/-- The words R75 lists as unrecognised, in numbers. -/
def Sys2Proof.ListedUnrecognised (w : Word) : Prop :=
  (w.toNat / 4096 = 0 ∧ w.toNat ∉ [0x0000, 0x00E0, 0x00EE]) ∨
  ((w.toNat / 4096 = 5 ∨ w.toNat / 4096 = 9) ∧ w.toNat % 16 ≠ 0) ∨
  (w.toNat / 4096 = 8 ∧ w.toNat % 16 ∈ [8, 9, 0xA, 0xB, 0xC, 0xD, 0xF]) ∨
  (w.toNat / 4096 = 0xE ∧ w.toNat % 256 ∉ [0x9E, 0xA1]) ∨
  (w.toNat / 4096 = 0xF ∧ w.toNat % 256 ∉ [0x07, 0x0A, 0x15, 0x18, 0x1E, 0x29, 0x33, 0x55, 0x65])

/-- R75: the unrecognised words are exactly the words that match no row of R73 and exactly those listed, the decoder
rejects exactly them, and executing one raises `UnimplementedOpcode` carrying the word and its address (R95). -/
def Obligations.UnrecognisedWordsFault : Prop :=
  (∀ w : Word, wellFormedWord w = false ↔ ListedUnrecognised w) ∧
  (∀ w : Word, (¬∃ i, decode w = .ok i) ↔ ListedUnrecognised w) ∧
  (∀ (s : State) (w : Word), s.fault = none → s.pc.toNat < 4095 →
    joinBytes (s.readByte s.pc.toNat) (s.readByte (s.pc.toNat + 1)) = w → ListedUnrecognised w →
    step s = .next { s with fault := some ⟨.unimplementedOpcode, some w, s.pc, none⟩ })

/-- The opcode map has 35 different rows and no word matches two of them (R74). -/
def Obligations.OpcodeRowsAreDisjoint : Prop :=
  opRows.length = 35 ∧ opRows.Nodup ∧ ∀ (w : Word) (r q : OpRow), r ∈ opRows → q ∈ opRows → r.holds w = true → q.holds w = true → r = q

/-- The decoding examples of spec/95_test_vectors.md 2.1, and one word of each other shape. -/
def Obligations.SampleWordsDecode : Prop :=
  decode 0x8AB4 = .ok (.addReg 0xA 0xB) ∧ decode 0xD125 = .ok (.drw 1 2 5) ∧ decode 0xB123 = .ok (.jpV0 0x123) ∧
  decode 0xF265 = .ok (.loadRegs 2) ∧ decode 0x3A7F = .ok (.seImm 0xA 0x7F) ∧ decode 0x00EE = .ok .ret ∧
  decode 0xE5A1 = .ok (.sknp 5)

/-! ### The tick (spec/40_execution_cycle.md) -/

/-- R92, R93: when nothing is recorded and the two bytes at pc, the high byte first, decode to `i`, the tick is the rule of
`i` on the state with pc advanced by 2, which does not wrap. -/
def Obligations.TickRunsTheDecodedInstruction : Prop :=
  ∀ (s : State) (i : Instr), s.fault = none → s.pc.toNat < 4095 →
    decode (joinBytes (s.readByte s.pc.toNat) (s.readByte (s.pc.toNat + 1))) = .ok i →
    step s = exec i { s with pc := s.pc + 2 } ∧ (s.pc + 2).toNat = s.pc.toNat + 2

/-- R91: a fetch at pc of 4095 or more raises `FetchOutOfRange` with no opcode, whatever memory holds. -/
def Obligations.FetchBeyondMemoryFaults : Prop :=
  ∀ s : State, s.fault = none → 4095 ≤ s.pc.toNat →
    step s = .next { s with fault := some ⟨.fetchOutOfRange, none, s.pc, none⟩ }

/-- R97: a tick while a fault is recorded changes nothing and reports that fault, and no command but `reset` and `new` clears it. -/
def Obligations.HaltedUntilReset : Prop :=
  ∀ (s : State) (r : FaultRecord), s.fault = some r →
    step s = .next s ∧ perform .tick s = .next (s, .faulted r) ∧
    (∀ (c : Command) (t : State) (a : Response), c ≠ .reset → c ≠ .new → perform c s = .next (t, a) → t.fault = some r) ∧
    (∀ c : Command, c = .reset ∨ c = .new → ∃ t, perform c s = .next (t, .ok) ∧ t.fault = none)

/-- R96, R222: a tick that raises a fault leaves every component but FAULT as it was, pc included, and the record holds the
fetched word (none for a fetch fault), the pc, and for `MemoryOutOfRange` only the address `max(I, 4096)`. -/
def Obligations.FaultsArePrecise : Prop :=
  ∀ (s t : State) (r : FaultRecord), s.fault = none → step s = .next t → t.fault = some r →
    t = { s with fault := some r } ∧ r.address = s.pc ∧
    (r.kind = .fetchOutOfRange → r.opcode = none) ∧
    (r.kind ≠ .fetchOutOfRange → r.opcode = some (joinBytes (s.readByte s.pc.toNat) (s.readByte (s.pc.toNat + 1)))) ∧
    (r.kind = .memoryOutOfRange → ∃ d : Word, r.dataAddress = some d ∧ d.toNat = max s.I.toNat 4096) ∧
    (r.kind ≠ .memoryOutOfRange → r.dataAddress = none)

/-- Every tick answers a next state, and the tick command reports `completed` exactly when no fault is then recorded, the recorded
fault otherwise (R101). -/
def Obligations.EveryTickAnswersNext : Prop :=
  ∀ s : State, ∃ t : State, step s = .next t ∧
    (t.fault = none → perform .tick s = .next (t, .completed)) ∧
    (∀ r : FaultRecord, t.fault = some r → perform .tick s = .next (t, .faulted r))

/-- R100: a tick that executes `Fx0A` with no key pressed leaves the whole state as it was. -/
def Obligations.WaitingForAKeyLeavesTheStateAlone : Prop :=
  ∀ (s : State) (x : Reg), s.fault = none → s.pc.toNat < 4095 →
    decode (joinBytes (s.readByte s.pc.toNat) (s.readByte (s.pc.toNat + 1))) = .ok (.ldVxK x) →
    (∀ k : Reg, s.keys[k] = false) → step s = .next s

/-- The fault of a tick follows the order of checks (R99) and is of the one kind its instruction can raise (R230). -/
def Obligations.OneFaultKindPerInstruction : Prop :=
  ∀ (s t : State) (r : FaultRecord), s.fault = none → step s = .next t → t.fault = some r →
    (4095 ≤ s.pc.toNat ∧ r.kind = .fetchOutOfRange) ∨
    (s.pc.toNat < 4095 ∧ wellFormedWord (joinBytes (s.readByte s.pc.toNat) (s.readByte (s.pc.toNat + 1))) = false ∧
      r.kind = .unimplementedOpcode) ∨
    (s.pc.toNat < 4095 ∧ ∃ i, decode (joinBytes (s.readByte s.pc.toNat) (s.readByte (s.pc.toNat + 1))) = .ok i ∧
      faultKind i = some r.kind)

/-- What an instruction may change: without a fault only its listed components (R22, R23, R28 to R30, R32, R34, R35, R53),
with one only FAULT and the pc, which goes back to the instruction (R96). -/
def Obligations.InstructionsChangeOnlyTheirOwn : Prop :=
  ∀ (i : Instr) (s : State), s.fault = none → ∃ t : State, exec i s = .next t ∧
    ((t.fault = none ∧ OnlyChanges (mayChange i) s t) ∨
     (∃ r : FaultRecord, t.fault = some r ∧ faultKind i = some r.kind ∧ t.pc = s.pc - 2 ∧ OnlyChanges [.pc, .fault] s t))

/-- The only writers of general registers are those of R23, and each writes only the registers listed for it. -/
def Obligations.RegisterWritersAreTheListedOnes : Prop :=
  ∀ (i : Instr) (s t : State) (r : Reg), exec i s = .next t → t.V[r] ≠ s.V[r] → r ∈ regsWritten i

/-! ### Invariants -/

/-- The invariant holds at reset. -/
def Obligations.ResetMeetsTheInvariant : Prop := State.reset.Inv ∧ ∀ font : Config.Font, (State.newCore font).Inv

/-- Every tick keeps the invariant, from every state that meets it. -/
def Obligations.EveryTickKeepsTheInvariant : Prop :=
  ∀ s t : State, s.Inv → step s = .next t → t.Inv

/-- Every host command keeps the invariant. -/
def Obligations.EveryCommandKeepsTheInvariant : Prop :=
  ∀ (c : Command) (s t : State) (a : Response), s.Inv → perform c s = .next (t, a) → t.Inv

/-- From construction on, whatever commands the host issues in whatever order, pc never passes 0x10FE (R27), the font and the
canonical form of memory stay, and every run goes on to its end. The canonical form (log entry 7) and a font that every command
keeps (log entry 11) are the model's own. -/
def Obligations.EveryCommandSequenceStaysBounded : Prop :=
  ∀ (font : Config.Font) (cs : List Command), ∃ t : State, performAll cs (State.newCore font) = .next t ∧
    t.pc.toNat ≤ 0x10FE ∧ t.font = font ∧ Memory.wf font t.mem = true

/-! ### Control flow (spec/41_flow.md) -/

/-- R110, R112, R120: NOP does nothing; JP sets pc to nnn; JP V0 sets it to the exact sum of V0 and nnn. -/
def Obligations.NopAndJumps : Prop :=
  (∀ s : State, exec .nop s = .next s) ∧
  (∀ (s : State) (nnn : Imm12), ∃ t, exec (.jp nnn) s = .next t ∧ t.pc.toNat = nnn.toNat ∧ OnlyChanges [.pc] s t) ∧
  (∀ (s : State) (nnn : Imm12), ∃ t, exec (.jpV0 nnn) s = .next t ∧
    t.pc.toNat = s.V[(0 : Reg)].toNat + nnn.toNat ∧ OnlyChanges [.pc] s t)

/-- R116 to R119: each skip adds 2 to the post-fetch pc exactly when its condition holds, and changes nothing else. -/
def Obligations.RegisterSkips : Prop :=
  ∀ (s : State) (x y : Reg) (nn : Byte),
    (∃ t, exec (.seImm x nn) s = .next t ∧ OnlyChanges [.pc] s t ∧
      t.pc = if s.V[x] = nn then s.pc + 2 else s.pc) ∧
    (∃ t, exec (.sneImm x nn) s = .next t ∧ OnlyChanges [.pc] s t ∧
      t.pc = if s.V[x] = nn then s.pc else s.pc + 2) ∧
    (∃ t, exec (.seReg x y) s = .next t ∧ OnlyChanges [.pc] s t ∧
      t.pc = if s.V[x] = s.V[y] then s.pc + 2 else s.pc) ∧
    (∃ t, exec (.sneReg x y) s = .next t ∧ OnlyChanges [.pc] s t ∧
      t.pc = if s.V[x] = s.V[y] then s.pc else s.pc + 2)

/-- R111: a skip that is taken passes over the word at `pc_inst + 2` whatever it is, with no fault; the pc does not wrap. -/
def Obligations.SkippedWordIsNotExecuted : Prop :=
  ∀ (s : State) (i : Instr) (x y : Reg) (nn : Byte), s.fault = none → s.pc.toNat < 4095 →
    decode (joinBytes (s.readByte s.pc.toNat) (s.readByte (s.pc.toNat + 1))) = .ok i →
    ((i = .seImm x nn ∧ s.V[x] = nn) ∨ (i = .sneImm x nn ∧ s.V[x] ≠ nn) ∨ (i = .seReg x y ∧ s.V[x] = s.V[y]) ∨
      (i = .sneReg x y ∧ s.V[x] ≠ s.V[y]) ∨ (∃ k : Reg, i = .skp x ∧ s.V[x].toNat = k.val ∧ s.keys[k] = true) ∨
      (∃ k : Reg, i = .sknp x ∧ s.V[x].toNat = k.val ∧ s.keys[k] = false)) →
    step s = .next { s with pc := s.pc + 4 } ∧ (s.pc + 4).toNat = s.pc.toNat + 4

/-- R114: with fewer than 16 entries, a call pushes the post-fetch pc at sp, increments sp and jumps; with 16, it raises
`StackOverflow` before any write. -/
def Obligations.CallPushesTheReturnAddress : Prop :=
  ∀ (s : State) (nnn : Imm12),
    (∀ h : s.sp.val < 16, ∃ t, exec (.call nnn) s = .next t ∧ t.pc.toNat = nnn.toNat ∧ t.sp.val = s.sp.val + 1 ∧
      t.stack[s.sp.val] = s.pc ∧ StackSameBut s.sp.val s t ∧ OnlyChanges [.pc, .stack, .sp] s t) ∧
    (s.sp.val = 16 → exec (.call nnn) s =
      .next { s with pc := s.pc - 2, fault := some ⟨.stackOverflow, some (encode (.call nnn)), s.pc - 2, none⟩ })

/-- R115: with an entry, a return decrements sp and takes pc from the entry there, which keeps its value; with none, it
raises `StackUnderflow` before any write. -/
def Obligations.ReturnPopsTheReturnAddress : Prop :=
  ∀ s : State,
    (∀ h : 0 < s.sp.val, ∃ t, exec .ret s = .next t ∧ t.sp.val = s.sp.val - 1 ∧
      t.pc = s.stack[s.sp.val - 1]'(by have := s.sp.isLt; omega) ∧ OnlyChanges [.pc, .sp] s t) ∧
    (s.sp.val = 0 → exec .ret s =
      .next { s with pc := s.pc - 2, fault := some ⟨.stackUnderflow, some 0x00EE, s.pc - 2, none⟩ })

/-- A return after a call comes back to the instruction after the call, with the stack pointer as before, whatever pc, registers,
memory or display did in between (R30, R113 to R115). -/
def Obligations.ReturnUndoesCall : Prop :=
  ∀ (s : State) (nnn : Imm12), s.sp.val < 16 → ∃ t, exec (.call nnn) s = .next t ∧
    ∀ u : State, u.stack = t.stack → u.sp = t.sp → ∃ v, exec .ret u = .next v ∧ v.pc = s.pc ∧ v.sp = s.sp

/-! ### Loads and the ALU (spec/42_alu.md) -/

/-- R130, R132, R202: the loads of a register from an immediate, a register and the delay timer. -/
def Obligations.RegisterLoads : Prop :=
  ∀ (s : State) (x y : Reg) (nn : Byte),
    (∃ t, exec (.ldImm x nn) s = .next t ∧ t.V[x] = nn ∧ RegsSameBut [x] s t ∧ OnlyChanges [.V] s t) ∧
    (∃ t, exec (.ldReg x y) s = .next t ∧ t.V[x] = s.V[y] ∧ RegsSameBut [x] s t ∧ OnlyChanges [.V] s t) ∧
    (∃ t, exec (.ldVxDT x) s = .next t ∧ t.V[x] = s.DT ∧ RegsSameBut [x] s t ∧ OnlyChanges [.V] s t)

/-- R131: the immediate is added modulo 256, and VF is written only as the destination. -/
def Obligations.AddImmediateWrapsWithoutFlag : Prop :=
  ∀ (s : State) (x : Reg) (nn : Byte), ∃ t, exec (.addImm x nn) s = .next t ∧
    t.V[x].toNat = (s.V[x].toNat + nn.toNat) % 256 ∧ RegsSameBut [x] s t ∧ OnlyChanges [.V] s t

/-- R133 to R135: OR, AND and XOR, bit by bit, with no flag. -/
def Obligations.BitwiseLogic : Prop :=
  ∀ (s : State) (x y : Reg),
    (∃ t, exec (.orReg x y) s = .next t ∧ (∀ k, t.V[x].getLsbD k = (s.V[x].getLsbD k || s.V[y].getLsbD k)) ∧
      RegsSameBut [x] s t ∧ OnlyChanges [.V] s t) ∧
    (∃ t, exec (.andReg x y) s = .next t ∧ (∀ k, t.V[x].getLsbD k = (s.V[x].getLsbD k && s.V[y].getLsbD k)) ∧
      RegsSameBut [x] s t ∧ OnlyChanges [.V] s t) ∧
    (∃ t, exec (.xorReg x y) s = .next t ∧ (∀ k, t.V[x].getLsbD k = (s.V[x].getLsbD k ^^ s.V[y].getLsbD k)) ∧
      RegsSameBut [x] s t ∧ OnlyChanges [.V] s t)

/-- R136: the sum modulo 256 goes to V[x], and then VF is 1 if the exact sum is 256 or more, else 0; with x = 0xF the flag stays. -/
def Obligations.AddSetsCarry : Prop :=
  ∀ (s : State) (x y : Reg), ∃ t, exec (.addReg x y) s = .next t ∧
    (x ≠ 15 → t.V[x].toNat = (s.V[x].toNat + s.V[y].toNat) % 256) ∧
    t.V[(15 : Reg)] = (if 256 ≤ s.V[x].toNat + s.V[y].toNat then 1 else 0) ∧
    RegsSameBut [x, 15] s t ∧ OnlyChanges [.V] s t

/-- R137, R139: the difference modulo 256 goes to V[x], and then VF is 0 if it borrowed, else 1; with x = 0xF the flag stays. -/
def Obligations.SubtractSetsNoBorrow : Prop :=
  ∀ (s : State) (x y : Reg),
    (∃ t, exec (.subReg x y) s = .next t ∧
      (x ≠ 15 → (t.V[x].toNat : Int) = ((s.V[x].toNat : Int) - s.V[y].toNat) % 256) ∧
      t.V[(15 : Reg)] = (if s.V[x].toNat < s.V[y].toNat then 0 else 1) ∧
      RegsSameBut [x, 15] s t ∧ OnlyChanges [.V] s t) ∧
    (∃ t, exec (.subnReg x y) s = .next t ∧
      (x ≠ 15 → (t.V[x].toNat : Int) = ((s.V[y].toNat : Int) - s.V[x].toNat) % 256) ∧
      t.V[(15 : Reg)] = (if s.V[y].toNat < s.V[x].toNat then 0 else 1) ∧
      RegsSameBut [x, 15] s t ∧ OnlyChanges [.V] s t)

/-- R138, R140: the shifts halve and double V[x] in place, VF then holds the bit shifted out, and V[y] is not read: every y
gives the same state. -/
def Obligations.ShiftsSetTheShiftedOutBit : Prop :=
  ∀ (s : State) (x y : Reg),
    (∃ t, exec (.shr x y) s = .next t ∧ (x ≠ 15 → t.V[x].toNat = s.V[x].toNat / 2) ∧
      t.V[(15 : Reg)].toNat = s.V[x].toNat % 2 ∧ RegsSameBut [x, 15] s t ∧ OnlyChanges [.V] s t ∧
      ∀ z : Reg, exec (.shr x z) s = .next t) ∧
    (∃ t, exec (.shl x y) s = .next t ∧ (x ≠ 15 → t.V[x].toNat = 2 * s.V[x].toNat % 256) ∧
      t.V[(15 : Reg)].toNat = s.V[x].toNat / 128 ∧ RegsSameBut [x, 15] s t ∧ OnlyChanges [.V] s t ∧
      ∀ z : Reg, exec (.shl x z) s = .next t)

/-- The draw of `Cxnn` (R141): V[x] becomes the drawn byte AND nn, and the next draw is another one. The drawn byte is the free
value `Config.randomByte` at the draw counter (the model's form, log entry 2); nothing is stated of what it is. -/
def Obligations.RandomDrawIsMasked : Prop :=
  ∀ (s : State) (x : Reg) (nn : Byte), ∃ t, exec (.rnd x nn) s = .next t ∧
    t.V[x] = Config.randomByte s.draws &&& nn ∧ t.draws = s.draws + 1 ∧
    RegsSameBut [x] s t ∧ OnlyChanges [.V, .draws] s t

/-! ### Index register, font, BCD, block transfers (spec/43_index_memory.md, spec/20_memory.md) -/

/-- R160, R161, R163: I is set to nnn, to the sum modulo 65536, and to five times V[x] without masking; no flag. -/
def Obligations.IndexRegisterWrites : Prop :=
  (∀ (s : State) (nnn : Imm12), ∃ t, exec (.ldI nnn) s = .next t ∧ t.I.toNat = nnn.toNat ∧ OnlyChanges [.I] s t) ∧
  (∀ (s : State) (x : Reg), ∃ t, exec (.addI x) s = .next t ∧
    t.I.toNat = (s.I.toNat + s.V[x].toNat) % 65536 ∧ OnlyChanges [.I] s t) ∧
  (∀ (s : State) (x : Reg), ∃ t, exec (.ldF x) s = .next t ∧ t.I.toNat = 5 * s.V[x].toNat ∧ OnlyChanges [.I] s t)

/-- The bytes an instruction accesses through I, as many as R53 counts for it; 0 for an instruction that accesses none. -/
def Sys2Proof.indexBytes : Instr → Nat
  | .drw _ _ n => n.toNat
  | .ldB _ => 3
  | .storeRegs x => x.val + 1
  | .loadRegs x => x.val + 1
  | .nop | .cls | .ret | .jp _ | .call _ | .seImm _ _ | .sneImm _ _ | .seReg _ _ | .sneReg _ _ => 0
  | .ldImm _ _ | .addImm _ _ | .ldReg _ _ | .orReg _ _ | .andReg _ _ | .xorReg _ _ | .rnd _ _ => 0
  | .addReg _ _ | .subReg _ _ | .shr _ _ | .subnReg _ _ | .shl _ _ => 0
  | .ldI _ | .jpV0 _ | .skp _ | .sknp _ | .ldVxDT _ | .ldVxK _ | .ldDTVx _ | .ldSTVx _ | .addI _ | .ldF _ => 0

/-- R54: if any address `I + k` an instruction would access is 4096 or more, it raises `MemoryOutOfRange` with the lowest such
address and no other effect; if none is (an instruction that accesses nothing included), it never raises that fault. -/
def Obligations.IndexAccessIsCheckedFirst : Prop :=
  ∀ (s : State) (i : Instr), s.fault = none →
    ((∃ k, k < indexBytes i ∧ 4096 ≤ s.I.toNat + k) →
      ∃ d : Word, exec i s = .next { s with pc := s.pc - 2,
                                            fault := some ⟨.memoryOutOfRange, some (encode i), s.pc - 2, some d⟩ } ∧
        d.toNat = max s.I.toNat 4096 ∧ (∃ k, k < indexBytes i ∧ d.toNat = s.I.toNat + k) ∧
        ∀ k, k < indexBytes i → 4096 ≤ s.I.toNat + k → d.toNat ≤ s.I.toNat + k) ∧
    ((∀ k, k < indexBytes i → s.I.toNat + k < 4096) →
      ∃ t, exec i s = .next t ∧ ∀ r : FaultRecord, t.fault = some r → r.kind ≠ .memoryOutOfRange)

/-- R164: the hundreds, tens and ones of V[x] are stored at I, I+1 and I+2 and nothing else changes; if I+2 is 4096 or more,
`MemoryOutOfRange` before any write. -/
def Obligations.DecimalStore : Prop :=
  ∀ (s : State) (x : Reg),
    (s.I.toNat + 2 < 4096 → ∃ t, exec (.ldB x) s = .next t ∧
      (t.readByte s.I.toNat).toNat = s.V[x].toNat / 100 ∧
      (t.readByte (s.I.toNat + 1)).toNat = s.V[x].toNat / 10 % 10 ∧
      (t.readByte (s.I.toNat + 2)).toNat = s.V[x].toNat % 10 ∧
      MemSameOutside s.I.toNat 3 s t ∧ OnlyChanges [.mem] s t) ∧
    (4096 ≤ s.I.toNat + 2 → ∃ d : Word, d.toNat = max s.I.toNat 4096 ∧ exec (.ldB x) s =
      .next { s with pc := s.pc - 2, fault := some ⟨.memoryOutOfRange, some (encode (.ldB x)), s.pc - 2, some d⟩ })

/-- R165: V[0] to V[x] are stored at I to I+x and nothing else changes, I included; if I+x is 4096 or more,
`MemoryOutOfRange` before any write. -/
def Obligations.BlockStore : Prop :=
  ∀ (s : State) (x : Reg),
    (s.I.toNat + x.val < 4096 → ∃ t, exec (.storeRegs x) s = .next t ∧
      (∀ k : Reg, k ≤ x → t.readByte (s.I.toNat + k.val) = s.V[k]) ∧
      MemSameOutside s.I.toNat (x.val + 1) s t ∧ OnlyChanges [.mem] s t) ∧
    (4096 ≤ s.I.toNat + x.val → ∃ d : Word, d.toNat = max s.I.toNat 4096 ∧ exec (.storeRegs x) s =
      .next { s with pc := s.pc - 2, fault := some ⟨.memoryOutOfRange, some (encode (.storeRegs x)), s.pc - 2, some d⟩ })

/-- R166: V[0] to V[x] are loaded from I to I+x and nothing else changes, I and all of memory included; if I+x is 4096 or
more, `MemoryOutOfRange` before any write. -/
def Obligations.BlockLoad : Prop :=
  ∀ (s : State) (x : Reg),
    (s.I.toNat + x.val < 4096 → ∃ t, exec (.loadRegs x) s = .next t ∧
      (∀ k : Reg, k ≤ x → t.V[k] = s.readByte (s.I.toNat + k.val)) ∧
      (∀ k : Reg, x < k → t.V[k] = s.V[k]) ∧ OnlyChanges [.V] s t) ∧
    (4096 ≤ s.I.toNat + x.val → ∃ d : Word, d.toNat = max s.I.toNat 4096 ∧ exec (.loadRegs x) s =
      .next { s with pc := s.pc - 2, fault := some ⟨.memoryOutOfRange, some (encode (.loadRegs x)), s.pc - 2, some d⟩ })

/-- Loading back what a block store stored gives the registers their values again, with I unchanged by both (R165, R166). -/
def Obligations.BlockLoadUndoesBlockStore : Prop :=
  ∀ (s : State) (x : Reg) (V' : Vector Byte 16), s.I.toNat + x.val < 4096 →
    ∃ t u, exec (.storeRegs x) s = .next t ∧ exec (.loadRegs x) { t with V := V' } = .next u ∧
      (∀ k : Reg, k ≤ x → u.V[k] = s.V[k]) ∧ (∀ k : Reg, x < k → u.V[k] = V'[k]) ∧ u.I = s.I

/-- A word that `Fx55` stores, V[k] as its high byte and V[k+1] as its low byte, is the word the next tick that reaches it
fetches and executes (R57, R64, R268). -/
def Obligations.StoredWordIsFetched : Prop :=
  ∀ (s : State) (x k : Reg) (i : Instr), s.fault = none → s.I.toNat + x.val < 4096 → (hk : k.val + 1 ≤ x.val) →
    decode (joinBytes s.V[k] (s.V[k.val + 1]'(by omega))) = .ok i → ∃ t, exec (.storeRegs x) s = .next t ∧
      ∀ p : Word, p.toNat = s.I.toNat + k.val → step { t with pc := p } = exec i { t with pc := p + 2 }

/-! ### Display (spec/44_display.md) -/

/-- R181: every pixel is unlit and nothing else changes. -/
def Obligations.ClearDisplay : Prop :=
  ∀ s : State, ∃ t, exec .cls s = .next t ∧ (∀ (c : Fin 64) (r : Fin 32), t.display.pixel c r = false) ∧
    OnlyChanges [.display] s t

/-- A one bit of the sprite lies on this pixel: bit `7 - col` of the byte at `I + row` is on column `(V[x] + col) mod 64` of row
`(V[y] + row) mod 32` (R182). -/
def Sys2Proof.SpriteOn (s : State) (x y : Reg) (n : Nibble) (c : Fin 64) (r : Fin 32) : Prop :=
  ∃ row col : Nat, row < n.toNat ∧ col < 8 ∧ (s.V[x].toNat + col) % 64 = c.val ∧ (s.V[y].toNat + row) % 32 = r.val ∧
    (s.readByte (s.I.toNat + row)).getLsbD (7 - col) = true

/-- R182, R183, R185: a draw inverts exactly the pixels that a one bit of the sprite lies on; VF is then 1 if some lit pixel was
turned unlit, else 0, with n = 0 too; if an address from I is out of range, `MemoryOutOfRange` before any pixel changes. -/
def Obligations.DrawInvertsTheSprite : Prop :=
  ∀ (s : State) (x y : Reg) (n : Nibble),
    (n = 0 ∨ s.I.toNat + n.toNat ≤ 4096 → ∃ t, exec (.drw x y n) s = .next t ∧
      (∀ (c : Fin 64) (r : Fin 32), t.display.pixel c r ≠ s.display.pixel c r ↔ SpriteOn s x y n c r) ∧
      ((∃ (c : Fin 64) (r : Fin 32), s.display.pixel c r = true ∧ t.display.pixel c r = false) → t.V[(15 : Reg)] = 1) ∧
      ((¬∃ (c : Fin 64) (r : Fin 32), s.display.pixel c r = true ∧ t.display.pixel c r = false) → t.V[(15 : Reg)] = 0) ∧
      RegsSameBut [15] s t ∧ OnlyChanges [.V, .display] s t) ∧
    (n ≠ 0 → 4096 < s.I.toNat + n.toNat → ∃ d : Word, d.toNat = max s.I.toNat 4096 ∧ exec (.drw x y n) s =
      .next { s with pc := s.pc - 2, fault := some ⟨.memoryOutOfRange, some (encode (.drw x y n)), s.pc - 2, some d⟩ })

/-- R184: drawing the same sprite at the same origin twice gives the display back. `V` is put back between the draws because VF,
which the first draw writes, may be an origin register. -/
def Obligations.DrawingTwiceRestoresTheDisplay : Prop :=
  ∀ (s : State) (x y : Reg) (n : Nibble), n = 0 ∨ s.I.toNat + n.toNat ≤ 4096 →
    ∃ t u, exec (.drw x y n) s = .next t ∧ exec (.drw x y n) { t with V := s.V } = .next u ∧ u.display = s.display

/-! ### Keys and timers (spec/45_keys_timers.md) -/

/-- R200, R201: a key skip adds 2 to the post-fetch pc exactly when the key V[x] names is (not) pressed; when V[x] is 16 or more,
`KeyIndexOutOfRange` before any write. -/
def Obligations.KeySkips : Prop :=
  ∀ (s : State) (x : Reg),
    (∀ k : Reg, s.V[x].toNat = k.val →
      (∃ t, exec (.skp x) s = .next t ∧ OnlyChanges [.pc] s t ∧ t.pc = if s.keys[k] = true then s.pc + 2 else s.pc) ∧
      (∃ t, exec (.sknp x) s = .next t ∧ OnlyChanges [.pc] s t ∧ t.pc = if s.keys[k] = true then s.pc else s.pc + 2)) ∧
    (16 ≤ s.V[x].toNat →
      exec (.skp x) s =
        .next { s with pc := s.pc - 2, fault := some ⟨.keyIndexOutOfRange, some (encode (.skp x)), s.pc - 2, none⟩ } ∧
      exec (.sknp x) s =
        .next { s with pc := s.pc - 2, fault := some ⟨.keyIndexOutOfRange, some (encode (.sknp x)), s.pc - 2, none⟩ })

/-- R203: with a key pressed V[x] becomes the least pressed key's number and the pc stays advanced; with none, only the pc goes
back by 2. -/
def Obligations.KeyWait : Prop :=
  ∀ (s : State) (x : Reg),
    (∀ k : Reg, s.keys[k] = true → (∀ j : Reg, j < k → s.keys[j] = false) →
      ∃ t, exec (.ldVxK x) s = .next t ∧ t.V[x].toNat = k.val ∧ RegsSameBut [x] s t ∧ OnlyChanges [.V] s t) ∧
    ((∀ k : Reg, s.keys[k] = false) →
      ∃ t, exec (.ldVxK x) s = .next t ∧ t.pc = s.pc - 2 ∧ OnlyChanges [.pc] s t)

/-- R204, R205: a timer is set to V[x] and nothing else changes. -/
def Obligations.TimerWrites : Prop :=
  ∀ (s : State) (x : Reg),
    (∃ t, exec (.ldDTVx x) s = .next t ∧ t.DT = s.V[x] ∧ OnlyChanges [.DT] s t) ∧
    (∃ t, exec (.ldSTVx x) s = .next t ∧ t.ST = s.V[x] ∧ OnlyChanges [.ST] s t)

/-! ### Host commands (spec/60_exceptions.md, spec/70_reset_and_hazards.md) -/

/-- R240, R241: each timer that is greater than 0 goes down by 1, a timer at 0 stays, and nothing else changes, a recorded fault or
not. -/
def Obligations.TimersCountDown : Prop :=
  ∀ s : State, ∃ t, perform .tickTimers s = .next (t, .ok) ∧
    (0 < s.DT.toNat → t.DT.toNat + 1 = s.DT.toNat) ∧ (s.DT = 0 → t.DT = 0) ∧
    (0 < s.ST.toNat → t.ST.toNat + 1 = s.ST.toNat) ∧ (s.ST = 0 → t.ST = 0) ∧ OnlyChanges [.DT, .ST] s t

/-- R262, R264: byte k of an image of at most 3584 bytes is written at 0x200 + k, and no other byte and no other state changes. -/
def Obligations.LoadCopiesTheImage : Prop :=
  ∀ (s : State) (rom : List Byte), rom.length ≤ 3584 → ∃ t, perform (.load rom) s = .next (t, .ok) ∧
    (∀ (k : Nat) (h : k < rom.length), t.readByte (0x200 + k) = rom[k]) ∧
    MemSameOutside 0x200 rom.length s t ∧ OnlyChanges [.mem] s t

/-- R229, R263: an image of more than 3584 bytes and a key index of 16 or more are refused to the caller with no effect at all. -/
def Obligations.BadHostCommandsChangeNothing : Prop :=
  (∀ (s : State) (rom : List Byte), 3584 < rom.length → perform (.load rom) s = .next (s, .loadOverflow)) ∧
  (∀ (s : State) (index : Nat) (pressed : Bool), 16 ≤ index →
    perform (.keyPress index pressed) s = .next (s, .invalidKeyIndex))

/-- R245: a key press with an index of 0 to 15 sets that key and nothing else; with another index it returns `InvalidKeyIndex` and
changes nothing. -/
def Obligations.KeyPressSetsOneKey : Prop :=
  ∀ (s : State) (pressed : Bool),
    (∀ k : Reg, ∃ t, perform (.keyPress k.val pressed) s = .next (t, .ok) ∧
      t.keys[k] = pressed ∧ (∀ j : Reg, j ≠ k → t.keys[j] = s.keys[j]) ∧ OnlyChanges [.keys] s t) ∧
    (∀ index : Nat, 16 ≤ index → perform (.keyPress index pressed) s = .next (s, .invalidKeyIndex))

/-- The display read-out changes nothing and answers the display (R246), all 2048 pixels; in its flat row-major layout pixel (c, r)
is element r * 64 + c (R34). That the read-out answers rows, from which the flat list is computed, is the model's choice (log entry
10). Reading ST and FAULT changes nothing either (R243, R36). -/
def Obligations.ReadOutsChangeNothing : Prop :=
  ∀ s : State, perform .getDisplay s = .next (s, .display s.display) ∧ s.display.flat.length = 2048 ∧
    (∀ (c : Fin 64) (r : Fin 32), s.display.flat[r.val * 64 + c.val]? = some (s.display.pixel c r)) ∧
    perform .readST s = .next (s, .soundTimer s.ST) ∧ perform .readFault s = .next (s, .faultRecord s.fault)

/-- After construction and after every reset, every component has its value of R40. FONT is a parameter, so the claim is for
every font. That a reset keeps the model's own `font` and `draws` is the model's choice (log entries 2 and 11), after R8 and R39. -/
def Obligations.NewAndResetGiveTheResetState : Prop :=
  AtReset State.reset.font State.reset ∧ (∀ font : Config.Font, AtReset font (State.newCore font)) ∧
  (∀ s : State, ∃ t, perform .reset s = .next (t, .ok) ∧ AtReset s.font t ∧ t.font = s.font ∧ t.draws = s.draws) ∧
  (∀ s : State, ∃ t, perform .new s = .next (t, .ok) ∧ AtReset s.font t)

/-- R223: while a fault is recorded, `tick` does nothing, `tick_timers` decrements, `key_press` sets, `get_display` returns, `load`
writes, and `reset` clears the fault. -/
def Obligations.HostCommandsWorkWhileHalted : Prop :=
  ∀ (s : State) (r : FaultRecord), s.fault = some r →
    perform .tick s = .next (s, .faulted r) ∧
    (∃ t, perform .tickTimers s = .next (t, .ok) ∧ t.DT.toNat = s.DT.toNat - 1 ∧ t.ST.toNat = s.ST.toNat - 1 ∧
      t.fault = some r) ∧
    (∀ (k : Reg) (b : Bool), ∃ t, perform (.keyPress k.val b) s = .next (t, .ok) ∧ t.keys[k] = b ∧ t.fault = some r) ∧
    perform .getDisplay s = .next (s, .display s.display) ∧
    (∀ rom : List Byte, rom.length ≤ 3584 → ∃ t, perform (.load rom) s = .next (t, .ok) ∧ t.fault = some r ∧
      ∀ (k : Nat) (h : k < rom.length), t.readByte (0x200 + k) = rom[k]) ∧
    (∃ t, perform .reset s = .next (t, .ok) ∧ t.fault = none)

/-- The boot sequence (R264, R265): after `new` and the `load` of an image, the first tick executes the image's first two bytes, the
first the high one. -/
def Obligations.BootRunsTheImage : Prop :=
  ∀ (font : Config.Font) (b0 b1 : Byte) (rest : List Byte) (i : Instr), rest.length + 2 ≤ 3584 →
    decode (joinBytes b0 b1) = .ok i →
    ∃ t, perform (.load (b0 :: b1 :: rest)) (State.newCore font) = .next (t, .ok) ∧ t.pc = 0x200 ∧
      step t = exec i { t with pc := 0x202 }

/-- With nothing loaded, a new core executes zeroed memory: k ticks advance the pc by 2k up to 0x1000, and the 1793rd tick raises
`FetchOutOfRange` with address 0x1000 (R266). -/
def Obligations.ZeroedMemoryRunsToTheEnd : Prop :=
  ∀ font : Config.Font,
    (∀ k : Nat, k ≤ 1792 → performAll (List.replicate k .tick) (State.newCore font) =
      .next { State.newCore font with pc := BitVec.ofNat 16 (0x200 + 2 * k) }) ∧
    performAll (List.replicate 1793 .tick) (State.newCore font) =
      .next { State.newCore font with pc := 0x1000, fault := some ⟨.fetchOutOfRange, none, 0x1000, none⟩ }

/-- The model's own placing of a word (log entry 8): from every state, the next step runs exactly the instruction placed, on a state
whose components other than pc, memory and FAULT are as before. -/
def Obligations.PlacedWordRunsNext : Prop :=
  ∀ (s : State) (i : Instr),
    step (s.withFetchWord 16 (encode i).toNat) = exec i (s.withFetchWord 16 (encode i).toNat).afterFetch ∧
    OnlyChanges [.pc, .mem, .fault] s (s.withFetchWord 16 (encode i).toNat) ∧
    (s.fault = none → s.pc.toNat < 4095 → (s.withFetchWord 16 (encode i).toNat).pc = s.pc ∧
      MemSameOutside s.pc.toNat 2 s (s.withFetchWord 16 (encode i).toNat))

/-- The codes of R221's table, and its last column: the record of a tick's fault lacks an opcode exactly for code 5 and has a data
address exactly for code 4. -/
def Obligations.FaultCodesAndRecordedFields : Prop :=
  (FaultKind.unimplementedOpcode.code = 1 ∧ FaultKind.stackOverflow.code = 2 ∧ FaultKind.stackUnderflow.code = 3 ∧
    FaultKind.memoryOutOfRange.code = 4 ∧ FaultKind.fetchOutOfRange.code = 5 ∧ FaultKind.keyIndexOutOfRange.code = 6) ∧
  ∀ (s t : State) (r : FaultRecord), s.fault = none → step s = .next t → t.fault = some r →
    (1 ≤ r.kind.code ∧ r.kind.code ≤ 6) ∧ (r.opcode = none ↔ r.kind.code = 5) ∧
    (r.dataAddress ≠ none ↔ r.kind.code = 4) ∧ r.address = s.pc
end

