-- ==== Sys2Proof/Laws/Decode.lean ====
section
/-! SUPPORT. The fields of an encoded word, one lemma per field and format, and a word put together from its nibbles. -/

namespace Sys2Proof

theorem toFin_regNibble (x : Reg) : (regNibble x).toFin = x := rfl

/-! ### Format NNN -/

@[simp] theorem n1_wordNNN (o : Nibble) (nnn : Imm12) : n1 (wordNNN o nnn) = o := by
  unfold n1 wordNNN; exact BitVec.extractLsb'_append_eq_left

@[simp] theorem fieldNNN_wordNNN (o : Nibble) (nnn : Imm12) : fieldNNN (wordNNN o nnn) = nnn := by
  unfold fieldNNN wordNNN; exact BitVec.extractLsb'_append_eq_right

/-! ### Formats XNN and X -/

@[simp] theorem n1_wordXNN (o : Nibble) (x : Reg) (nn : Byte) : n1 (wordXNN o x nn) = o := by
  unfold n1 wordXNN; exact BitVec.extractLsb'_append_eq_left

@[simp] theorem lowByte_wordXNN (o : Nibble) (x : Reg) (nn : Byte) : lowByte (wordXNN o x nn) = nn := by
  apply BitVec.eq_of_getLsbD_eq
  intro i hi
  simp only [lowByte, wordXNN, BitVec.getLsbD_extractLsb', BitVec.getLsbD_append]
  simp [hi, show i < 12 by omega]

@[simp] theorem fieldX_wordXNN (o : Nibble) (x : Reg) (nn : Byte) : fieldX (wordXNN o x nn) = x := by
  have : n2 (wordXNN o x nn) = regNibble x := by
    apply BitVec.eq_of_getLsbD_eq
    intro i hi
    simp only [n2, wordXNN, BitVec.getLsbD_extractLsb', BitVec.getLsbD_append]
    simp [hi, show 8 + i < 12 by omega]
  rw [fieldX, this, toFin_regNibble]

/-! ### Formats XYN and XY -/

@[simp] theorem n1_wordXYN (o : Nibble) (x y : Reg) (n : Nibble) : n1 (wordXYN o x y n) = o := by
  unfold n1 wordXYN; exact BitVec.extractLsb'_append_eq_left

@[simp] theorem n4_wordXYN (o : Nibble) (x y : Reg) (n : Nibble) : n4 (wordXYN o x y n) = n := by
  apply BitVec.eq_of_getLsbD_eq
  intro i hi
  simp only [n4, wordXYN, BitVec.getLsbD_extractLsb', BitVec.getLsbD_append]
  simp [hi, show i < 12 by omega, show i < 8 by omega]

@[simp] theorem fieldX_wordXYN (o : Nibble) (x y : Reg) (n : Nibble) : fieldX (wordXYN o x y n) = x := by
  have : n2 (wordXYN o x y n) = regNibble x := by
    apply BitVec.eq_of_getLsbD_eq
    intro i hi
    simp only [n2, wordXYN, BitVec.getLsbD_extractLsb', BitVec.getLsbD_append]
    simp [hi, show 8 + i < 12 by omega]
  rw [fieldX, this, toFin_regNibble]

@[simp] theorem fieldY_wordXYN (o : Nibble) (x y : Reg) (n : Nibble) : fieldY (wordXYN o x y n) = y := by
  have : n3 (wordXYN o x y n) = regNibble y := by
    apply BitVec.eq_of_getLsbD_eq
    intro i hi
    simp only [n3, wordXYN, BitVec.getLsbD_extractLsb', BitVec.getLsbD_append]
    simp [hi, show 4 + i < 12 by omega, show 4 + i < 8 by omega]
  rw [fieldY, this, toFin_regNibble]

/-! ### A word from its fields -/

theorem regNibble_fieldX (w : Word) : regNibble (fieldX w) = n2 w := rfl

theorem regNibble_fieldY (w : Word) : regNibble (fieldY w) = n3 w := rfl

theorem wordNNN_fields (w : Word) : wordNNN (n1 w) (fieldNNN w) = w := by
  apply BitVec.eq_of_getLsbD_eq
  intro i hi
  simp only [wordNNN, BitVec.getLsbD_append, n1, fieldNNN, BitVec.getLsbD_extractLsb']
  split
  · simp [*]
  · simp [show 12 + (i - 12) = i by omega]; omega

theorem wordXNN_fields (w : Word) : wordXNN (n1 w) (fieldX w) (lowByte w) = w := by
  apply BitVec.eq_of_getLsbD_eq
  intro i hi
  simp only [wordXNN, regNibble_fieldX, BitVec.getLsbD_append, n1, n2, lowByte, BitVec.getLsbD_extractLsb']
  split
  · split
    · simp [*]
    · simp [show 8 + (i - 8) = i by omega]; omega
  · simp [show 12 + (i - 12) = i by omega]; omega

theorem wordXYN_fields (w : Word) : wordXYN (n1 w) (fieldX w) (fieldY w) (n4 w) = w := by
  apply BitVec.eq_of_getLsbD_eq
  intro i hi
  simp only [wordXYN, regNibble_fieldX, regNibble_fieldY, BitVec.getLsbD_append, n1, n2, n3, n4,
    BitVec.getLsbD_extractLsb']
  split
  · split
    · split
      · simp [*]
      · simp [show 4 + (i - 4) = i by omega]; omega
    · simp [show 8 + (i - 8) = i by omega]; omega
  · simp [show 12 + (i - 12) = i by omega]; omega

/-! ### Bytes -/

@[simp] theorem joinBytes_bytes (w : Word) : joinBytes (highByte w) (lowByte w) = w := by
  apply BitVec.eq_of_getLsbD_eq
  intro i hi
  simp only [joinBytes, highByte, lowByte, BitVec.getLsbD_append, BitVec.getLsbD_extractLsb']
  split
  · simp [*]
  · simp [show 8 + (i - 8) = i by omega]; omega

@[simp] theorem highByte_joinBytes (hi lo : Byte) : highByte (joinBytes hi lo) = hi := by
  unfold highByte joinBytes; exact BitVec.extractLsb'_append_eq_left

@[simp] theorem lowByte_joinBytes (hi lo : Byte) : lowByte (joinBytes hi lo) = lo := by
  unfold lowByte joinBytes; exact BitVec.extractLsb'_append_eq_right

end Sys2Proof
end

