-- ==== Sys2Proof/Laws/State.lean ====
section
/-! SUPPORT. One lemma per field per update of the state, so that no later proof unfolds a record update. -/

namespace Sys2Proof.Machine

open Sys2Proof

/-! ### setMem -/

@[simp] theorem State.setMem_V (s : State) (m : Memory) : (s.setMem m).V = s.V := rfl
@[simp] theorem State.setMem_pc (s : State) (m : Memory) : (s.setMem m).pc = s.pc := rfl
@[simp] theorem State.setMem_I (s : State) (m : Memory) : (s.setMem m).I = s.I := rfl
@[simp] theorem State.setMem_stack (s : State) (m : Memory) : (s.setMem m).stack = s.stack := rfl
@[simp] theorem State.setMem_sp (s : State) (m : Memory) : (s.setMem m).sp = s.sp := rfl
@[simp] theorem State.setMem_DT (s : State) (m : Memory) : (s.setMem m).DT = s.DT := rfl
@[simp] theorem State.setMem_ST (s : State) (m : Memory) : (s.setMem m).ST = s.ST := rfl
@[simp] theorem State.setMem_mem (s : State) (m : Memory) : (s.setMem m).mem = m := rfl
@[simp] theorem State.setMem_display (s : State) (m : Memory) : (s.setMem m).display = s.display := rfl
@[simp] theorem State.setMem_keys (s : State) (m : Memory) : (s.setMem m).keys = s.keys := rfl
@[simp] theorem State.setMem_fault (s : State) (m : Memory) : (s.setMem m).fault = s.fault := rfl
@[simp] theorem State.setMem_font (s : State) (m : Memory) : (s.setMem m).font = s.font := rfl
@[simp] theorem State.setMem_draws (s : State) (m : Memory) : (s.setMem m).draws = s.draws := rfl

/-! ### setV -/

@[simp] theorem State.setV_V (s : State) (r : Reg) (b : Byte) : (s.setV r b).V = s.V.set r b := rfl
@[simp] theorem State.setV_pc (s : State) (r : Reg) (b : Byte) : (s.setV r b).pc = s.pc := rfl
@[simp] theorem State.setV_I (s : State) (r : Reg) (b : Byte) : (s.setV r b).I = s.I := rfl
@[simp] theorem State.setV_stack (s : State) (r : Reg) (b : Byte) : (s.setV r b).stack = s.stack := rfl
@[simp] theorem State.setV_sp (s : State) (r : Reg) (b : Byte) : (s.setV r b).sp = s.sp := rfl
@[simp] theorem State.setV_DT (s : State) (r : Reg) (b : Byte) : (s.setV r b).DT = s.DT := rfl
@[simp] theorem State.setV_ST (s : State) (r : Reg) (b : Byte) : (s.setV r b).ST = s.ST := rfl
@[simp] theorem State.setV_mem (s : State) (r : Reg) (b : Byte) : (s.setV r b).mem = s.mem := rfl
@[simp] theorem State.setV_display (s : State) (r : Reg) (b : Byte) : (s.setV r b).display = s.display := rfl
@[simp] theorem State.setV_keys (s : State) (r : Reg) (b : Byte) : (s.setV r b).keys = s.keys := rfl
@[simp] theorem State.setV_fault (s : State) (r : Reg) (b : Byte) : (s.setV r b).fault = s.fault := rfl
@[simp] theorem State.setV_font (s : State) (r : Reg) (b : Byte) : (s.setV r b).font = s.font := rfl
@[simp] theorem State.setV_draws (s : State) (r : Reg) (b : Byte) : (s.setV r b).draws = s.draws := rfl
@[simp] theorem State.setV_readByte (s : State) (r : Reg) (b : Byte) (a : Nat) : (s.setV r b).readByte a = s.readByte a := rfl

/-! ### setPc -/

@[simp] theorem State.setPc_V (s : State) (w : Word) : (s.setPc w).V = s.V := rfl
@[simp] theorem State.setPc_pc (s : State) (w : Word) : (s.setPc w).pc = w := rfl
@[simp] theorem State.setPc_I (s : State) (w : Word) : (s.setPc w).I = s.I := rfl
@[simp] theorem State.setPc_stack (s : State) (w : Word) : (s.setPc w).stack = s.stack := rfl
@[simp] theorem State.setPc_sp (s : State) (w : Word) : (s.setPc w).sp = s.sp := rfl
@[simp] theorem State.setPc_DT (s : State) (w : Word) : (s.setPc w).DT = s.DT := rfl
@[simp] theorem State.setPc_ST (s : State) (w : Word) : (s.setPc w).ST = s.ST := rfl
@[simp] theorem State.setPc_mem (s : State) (w : Word) : (s.setPc w).mem = s.mem := rfl
@[simp] theorem State.setPc_display (s : State) (w : Word) : (s.setPc w).display = s.display := rfl
@[simp] theorem State.setPc_keys (s : State) (w : Word) : (s.setPc w).keys = s.keys := rfl
@[simp] theorem State.setPc_fault (s : State) (w : Word) : (s.setPc w).fault = s.fault := rfl
@[simp] theorem State.setPc_font (s : State) (w : Word) : (s.setPc w).font = s.font := rfl
@[simp] theorem State.setPc_draws (s : State) (w : Word) : (s.setPc w).draws = s.draws := rfl
@[simp] theorem State.setPc_readByte (s : State) (w : Word) (a : Nat) : (s.setPc w).readByte a = s.readByte a := rfl

/-! ### setI -/

@[simp] theorem State.setI_V (s : State) (w : Word) : (s.setI w).V = s.V := rfl
@[simp] theorem State.setI_pc (s : State) (w : Word) : (s.setI w).pc = s.pc := rfl
@[simp] theorem State.setI_I (s : State) (w : Word) : (s.setI w).I = w := rfl
@[simp] theorem State.setI_stack (s : State) (w : Word) : (s.setI w).stack = s.stack := rfl
@[simp] theorem State.setI_sp (s : State) (w : Word) : (s.setI w).sp = s.sp := rfl
@[simp] theorem State.setI_DT (s : State) (w : Word) : (s.setI w).DT = s.DT := rfl
@[simp] theorem State.setI_ST (s : State) (w : Word) : (s.setI w).ST = s.ST := rfl
@[simp] theorem State.setI_mem (s : State) (w : Word) : (s.setI w).mem = s.mem := rfl
@[simp] theorem State.setI_display (s : State) (w : Word) : (s.setI w).display = s.display := rfl
@[simp] theorem State.setI_keys (s : State) (w : Word) : (s.setI w).keys = s.keys := rfl
@[simp] theorem State.setI_fault (s : State) (w : Word) : (s.setI w).fault = s.fault := rfl
@[simp] theorem State.setI_font (s : State) (w : Word) : (s.setI w).font = s.font := rfl
@[simp] theorem State.setI_draws (s : State) (w : Word) : (s.setI w).draws = s.draws := rfl
@[simp] theorem State.setI_readByte (s : State) (w : Word) (a : Nat) : (s.setI w).readByte a = s.readByte a := rfl

/-! ### setDT -/

@[simp] theorem State.setDT_V (s : State) (b : Byte) : (s.setDT b).V = s.V := rfl
@[simp] theorem State.setDT_pc (s : State) (b : Byte) : (s.setDT b).pc = s.pc := rfl
@[simp] theorem State.setDT_I (s : State) (b : Byte) : (s.setDT b).I = s.I := rfl
@[simp] theorem State.setDT_stack (s : State) (b : Byte) : (s.setDT b).stack = s.stack := rfl
@[simp] theorem State.setDT_sp (s : State) (b : Byte) : (s.setDT b).sp = s.sp := rfl
@[simp] theorem State.setDT_DT (s : State) (b : Byte) : (s.setDT b).DT = b := rfl
@[simp] theorem State.setDT_ST (s : State) (b : Byte) : (s.setDT b).ST = s.ST := rfl
@[simp] theorem State.setDT_mem (s : State) (b : Byte) : (s.setDT b).mem = s.mem := rfl
@[simp] theorem State.setDT_display (s : State) (b : Byte) : (s.setDT b).display = s.display := rfl
@[simp] theorem State.setDT_keys (s : State) (b : Byte) : (s.setDT b).keys = s.keys := rfl
@[simp] theorem State.setDT_fault (s : State) (b : Byte) : (s.setDT b).fault = s.fault := rfl
@[simp] theorem State.setDT_font (s : State) (b : Byte) : (s.setDT b).font = s.font := rfl
@[simp] theorem State.setDT_draws (s : State) (b : Byte) : (s.setDT b).draws = s.draws := rfl
@[simp] theorem State.setDT_readByte (s : State) (b : Byte) (a : Nat) : (s.setDT b).readByte a = s.readByte a := rfl

/-! ### setST -/

@[simp] theorem State.setST_V (s : State) (b : Byte) : (s.setST b).V = s.V := rfl
@[simp] theorem State.setST_pc (s : State) (b : Byte) : (s.setST b).pc = s.pc := rfl
@[simp] theorem State.setST_I (s : State) (b : Byte) : (s.setST b).I = s.I := rfl
@[simp] theorem State.setST_stack (s : State) (b : Byte) : (s.setST b).stack = s.stack := rfl
@[simp] theorem State.setST_sp (s : State) (b : Byte) : (s.setST b).sp = s.sp := rfl
@[simp] theorem State.setST_DT (s : State) (b : Byte) : (s.setST b).DT = s.DT := rfl
@[simp] theorem State.setST_ST (s : State) (b : Byte) : (s.setST b).ST = b := rfl
@[simp] theorem State.setST_mem (s : State) (b : Byte) : (s.setST b).mem = s.mem := rfl
@[simp] theorem State.setST_display (s : State) (b : Byte) : (s.setST b).display = s.display := rfl
@[simp] theorem State.setST_keys (s : State) (b : Byte) : (s.setST b).keys = s.keys := rfl
@[simp] theorem State.setST_fault (s : State) (b : Byte) : (s.setST b).fault = s.fault := rfl
@[simp] theorem State.setST_font (s : State) (b : Byte) : (s.setST b).font = s.font := rfl
@[simp] theorem State.setST_draws (s : State) (b : Byte) : (s.setST b).draws = s.draws := rfl
@[simp] theorem State.setST_readByte (s : State) (b : Byte) (a : Nat) : (s.setST b).readByte a = s.readByte a := rfl

/-! ### setDisplay -/

@[simp] theorem State.setDisplay_V (s : State) (d : Display) : (s.setDisplay d).V = s.V := rfl
@[simp] theorem State.setDisplay_pc (s : State) (d : Display) : (s.setDisplay d).pc = s.pc := rfl
@[simp] theorem State.setDisplay_I (s : State) (d : Display) : (s.setDisplay d).I = s.I := rfl
@[simp] theorem State.setDisplay_stack (s : State) (d : Display) : (s.setDisplay d).stack = s.stack := rfl
@[simp] theorem State.setDisplay_sp (s : State) (d : Display) : (s.setDisplay d).sp = s.sp := rfl
@[simp] theorem State.setDisplay_DT (s : State) (d : Display) : (s.setDisplay d).DT = s.DT := rfl
@[simp] theorem State.setDisplay_ST (s : State) (d : Display) : (s.setDisplay d).ST = s.ST := rfl
@[simp] theorem State.setDisplay_mem (s : State) (d : Display) : (s.setDisplay d).mem = s.mem := rfl
@[simp] theorem State.setDisplay_display (s : State) (d : Display) : (s.setDisplay d).display = d := rfl
@[simp] theorem State.setDisplay_keys (s : State) (d : Display) : (s.setDisplay d).keys = s.keys := rfl
@[simp] theorem State.setDisplay_fault (s : State) (d : Display) : (s.setDisplay d).fault = s.fault := rfl
@[simp] theorem State.setDisplay_font (s : State) (d : Display) : (s.setDisplay d).font = s.font := rfl
@[simp] theorem State.setDisplay_draws (s : State) (d : Display) : (s.setDisplay d).draws = s.draws := rfl
@[simp] theorem State.setDisplay_readByte (s : State) (d : Display) (a : Nat) : (s.setDisplay d).readByte a = s.readByte a := rfl

/-! ### setKey -/

@[simp] theorem State.setKey_V (s : State) (k : Reg) (b : Bool) : (s.setKey k b).V = s.V := rfl
@[simp] theorem State.setKey_pc (s : State) (k : Reg) (b : Bool) : (s.setKey k b).pc = s.pc := rfl
@[simp] theorem State.setKey_I (s : State) (k : Reg) (b : Bool) : (s.setKey k b).I = s.I := rfl
@[simp] theorem State.setKey_stack (s : State) (k : Reg) (b : Bool) : (s.setKey k b).stack = s.stack := rfl
@[simp] theorem State.setKey_sp (s : State) (k : Reg) (b : Bool) : (s.setKey k b).sp = s.sp := rfl
@[simp] theorem State.setKey_DT (s : State) (k : Reg) (b : Bool) : (s.setKey k b).DT = s.DT := rfl
@[simp] theorem State.setKey_ST (s : State) (k : Reg) (b : Bool) : (s.setKey k b).ST = s.ST := rfl
@[simp] theorem State.setKey_mem (s : State) (k : Reg) (b : Bool) : (s.setKey k b).mem = s.mem := rfl
@[simp] theorem State.setKey_display (s : State) (k : Reg) (b : Bool) : (s.setKey k b).display = s.display := rfl
@[simp] theorem State.setKey_keys (s : State) (k : Reg) (b : Bool) : (s.setKey k b).keys = s.keys.set k b := rfl
@[simp] theorem State.setKey_fault (s : State) (k : Reg) (b : Bool) : (s.setKey k b).fault = s.fault := rfl
@[simp] theorem State.setKey_font (s : State) (k : Reg) (b : Bool) : (s.setKey k b).font = s.font := rfl
@[simp] theorem State.setKey_draws (s : State) (k : Reg) (b : Bool) : (s.setKey k b).draws = s.draws := rfl
@[simp] theorem State.setKey_readByte (s : State) (k : Reg) (b : Bool) (a : Nat) : (s.setKey k b).readByte a = s.readByte a := rfl

/-! ### countDraw -/

@[simp] theorem State.countDraw_V (s : State) : (s.countDraw).V = s.V := rfl
@[simp] theorem State.countDraw_pc (s : State) : (s.countDraw).pc = s.pc := rfl
@[simp] theorem State.countDraw_I (s : State) : (s.countDraw).I = s.I := rfl
@[simp] theorem State.countDraw_stack (s : State) : (s.countDraw).stack = s.stack := rfl
@[simp] theorem State.countDraw_sp (s : State) : (s.countDraw).sp = s.sp := rfl
@[simp] theorem State.countDraw_DT (s : State) : (s.countDraw).DT = s.DT := rfl
@[simp] theorem State.countDraw_ST (s : State) : (s.countDraw).ST = s.ST := rfl
@[simp] theorem State.countDraw_mem (s : State) : (s.countDraw).mem = s.mem := rfl
@[simp] theorem State.countDraw_display (s : State) : (s.countDraw).display = s.display := rfl
@[simp] theorem State.countDraw_keys (s : State) : (s.countDraw).keys = s.keys := rfl
@[simp] theorem State.countDraw_fault (s : State) : (s.countDraw).fault = s.fault := rfl
@[simp] theorem State.countDraw_font (s : State) : (s.countDraw).font = s.font := rfl
@[simp] theorem State.countDraw_draws (s : State) : (s.countDraw).draws = s.draws + 1 := rfl
@[simp] theorem State.countDraw_readByte (s : State) (a : Nat) : (s.countDraw).readByte a = s.readByte a := rfl

/-! ### takeFault -/

@[simp] theorem State.takeFault_V (s : State) (kd : FaultKind) (op : Option Word) (p : Word) (d : Option Word) : (s.takeFault kd op p d).V = s.V := rfl
@[simp] theorem State.takeFault_pc (s : State) (kd : FaultKind) (op : Option Word) (p : Word) (d : Option Word) : (s.takeFault kd op p d).pc = p := rfl
@[simp] theorem State.takeFault_I (s : State) (kd : FaultKind) (op : Option Word) (p : Word) (d : Option Word) : (s.takeFault kd op p d).I = s.I := rfl
@[simp] theorem State.takeFault_stack (s : State) (kd : FaultKind) (op : Option Word) (p : Word) (d : Option Word) : (s.takeFault kd op p d).stack = s.stack := rfl
@[simp] theorem State.takeFault_sp (s : State) (kd : FaultKind) (op : Option Word) (p : Word) (d : Option Word) : (s.takeFault kd op p d).sp = s.sp := rfl
@[simp] theorem State.takeFault_DT (s : State) (kd : FaultKind) (op : Option Word) (p : Word) (d : Option Word) : (s.takeFault kd op p d).DT = s.DT := rfl
@[simp] theorem State.takeFault_ST (s : State) (kd : FaultKind) (op : Option Word) (p : Word) (d : Option Word) : (s.takeFault kd op p d).ST = s.ST := rfl
@[simp] theorem State.takeFault_mem (s : State) (kd : FaultKind) (op : Option Word) (p : Word) (d : Option Word) : (s.takeFault kd op p d).mem = s.mem := rfl
@[simp] theorem State.takeFault_display (s : State) (kd : FaultKind) (op : Option Word) (p : Word) (d : Option Word) : (s.takeFault kd op p d).display = s.display := rfl
@[simp] theorem State.takeFault_keys (s : State) (kd : FaultKind) (op : Option Word) (p : Word) (d : Option Word) : (s.takeFault kd op p d).keys = s.keys := rfl
@[simp] theorem State.takeFault_fault (s : State) (kd : FaultKind) (op : Option Word) (p : Word) (d : Option Word) : (s.takeFault kd op p d).fault = some ⟨kd, op, p, d⟩ := rfl
@[simp] theorem State.takeFault_font (s : State) (kd : FaultKind) (op : Option Word) (p : Word) (d : Option Word) : (s.takeFault kd op p d).font = s.font := rfl
@[simp] theorem State.takeFault_draws (s : State) (kd : FaultKind) (op : Option Word) (p : Word) (d : Option Word) : (s.takeFault kd op p d).draws = s.draws := rfl
@[simp] theorem State.takeFault_readByte (s : State) (kd : FaultKind) (op : Option Word) (p : Word) (d : Option Word) (a : Nat) : (s.takeFault kd op p d).readByte a = s.readByte a := rfl

/-! ### The updates that are one of those -/

@[simp] theorem State.skip_eq (s : State) : s.skip = s.setPc (s.pc + 2) := rfl
@[simp] theorem State.rewind_eq (s : State) : s.rewind = s.setPc (s.pc - 2) := rfl
@[simp] theorem State.afterFetch_eq (s : State) : s.afterFetch = s.setPc (s.pc + 2) := rfl

theorem State.skipIf_eq (s : State) (c : Bool) : s.skipIf c = s.setPc (if c then s.pc + 2 else s.pc) := by
  cases c <;> rfl

/-- Undoing the fetch advance: the pc of the state before it. -/
@[simp] theorem word_add_two_sub_two (w : Word) : w + 2 - 2 = w := by simp

/-- Reading a register after a write to one. -/
theorem State.setV_getElem (s : State) (r q : Reg) (b : Byte) :
    (s.setV r b).V[q] = if q = r then b else s.V[q] := by
  simp only [State.setV_V, Fin.getElem_fin, Vector.getElem_set]
  split <;> split <;> simp_all [Fin.ext_iff]

/-- Reading a key after a write to one. -/
theorem State.setKey_getElem (s : State) (k q : Reg) (b : Bool) :
    (s.setKey k b).keys[q] = if q = k then b else s.keys[q] := by
  simp only [State.setKey_keys, Fin.getElem_fin, Vector.getElem_set]
  split <;> split <;> simp_all [Fin.ext_iff]

end Sys2Proof.Machine
end

