-- ==== Sys2Proof/Laws/Memory.lean ====
section
/-! SUPPORT. What the memory operations do: read after write, everything else alone, and the canonical form kept. -/

namespace Sys2Proof.Machine

open Sys2Proof

/-! ### The list of cells -/

theorem Memory.lookup_insert (m : Memory) (a a' : Nat) (b : Byte) :
    (Memory.insert m a b).lookup a' = if a' = a then some b else m.lookup a' := by
  induction m with
  | nil => simp [Memory.insert, Memory.lookup]
  | cons c m ih =>
    obtain ⟨k, c⟩ := c
    simp only [Memory.insert]
    split
    · simp [Memory.lookup]
    · split
      · subst_vars; simp only [Memory.lookup]; split <;> simp_all
      · simp only [Memory.lookup, ih]; split <;> split <;> simp_all

theorem Memory.lookup_erase (m : Memory) (a a' : Nat) :
    (Memory.erase m a).lookup a' = if a' = a then none else m.lookup a' := by
  induction m with
  | nil => simp [Memory.erase, Memory.lookup]
  | cons c m ih =>
    obtain ⟨k, c⟩ := c
    simp only [Memory.erase]
    split
    · subst_vars; simp only [Memory.lookup, ih]; split <;> simp_all
    · simp only [Memory.lookup, ih]; split <;> split <;> simp_all

/-- The canonical form, unpacked once. -/
theorem Memory.wf_cons (font : Config.Font) (k : Nat) (b : Byte) (m : Memory) :
    Memory.wf font ((k, b) :: m) = true ↔
      k < 4096 ∧ b ≠ resetByte font k ∧ (∀ c ∈ m, k < c.1) ∧ Memory.wf font m = true := by
  simp [Memory.wf, and_assoc]

theorem Memory.mem_insert (m : Memory) (a : Nat) (b : Byte) (c : Host.Cell) (h : c ∈ Memory.insert m a b) :
    c = (a, b) ∨ c ∈ m := by
  induction m with
  | nil => simpa [Memory.insert] using h
  | cons d m ih =>
    simp only [Memory.insert] at h
    split at h
    · simpa using h
    · split at h
      · simp only [List.mem_cons] at h ⊢; tauto
      · simp only [List.mem_cons] at h ⊢; tauto

theorem Memory.mem_erase (m : Memory) (a : Nat) (c : Host.Cell) (h : c ∈ Memory.erase m a) : c ∈ m := by
  induction m with
  | nil => simp [Memory.erase] at h
  | cons d m ih =>
    simp only [Memory.erase] at h
    split at h
    · exact List.mem_cons_of_mem _ (ih h)
    · simp only [List.mem_cons] at h ⊢; tauto

theorem Memory.wf_insert (font : Config.Font) (m : Memory) (a : Nat) (b : Byte) (ha : a < 4096)
    (hb : b ≠ resetByte font a) (h : Memory.wf font m = true) : Memory.wf font (Memory.insert m a b) = true := by
  induction m with
  | nil => simp [Memory.insert, ha, hb, Memory.wf]
  | cons c m ih =>
    obtain ⟨k, c⟩ := c
    obtain ⟨hk, hc, hlt, hm⟩ := (Memory.wf_cons ..).1 h
    simp only [Memory.insert]
    split
    next hak =>
      refine (Memory.wf_cons ..).2 ⟨ha, hb, ?_, h⟩
      intro d hd
      rcases List.mem_cons.1 hd with rfl | hd
      · exact hak
      · exact hak.trans (hlt d hd)
    next hak =>
      split
      next hk' => subst hk'; exact (Memory.wf_cons ..).2 ⟨ha, hb, hlt, hm⟩
      next hk' =>
        refine (Memory.wf_cons ..).2 ⟨hk, hc, ?_, ih hm⟩
        intro d hd
        rcases Memory.mem_insert m a b d hd with rfl | hd
        · show k < a; omega
        · exact hlt d hd

theorem Memory.wf_erase (font : Config.Font) (m : Memory) (a : Nat) (h : Memory.wf font m = true) :
    Memory.wf font (Memory.erase m a) = true := by
  induction m with
  | nil => exact h
  | cons c m ih =>
    obtain ⟨k, c⟩ := c
    obtain ⟨hk, hc, hlt, hm⟩ := (Memory.wf_cons ..).1 h
    simp only [Memory.erase]
    split
    · exact ih hm
    · exact (Memory.wf_cons ..).2 ⟨hk, hc, fun d hd => hlt d (Memory.mem_erase m a d hd), ih hm⟩

/-! ### One byte -/

@[simp] theorem State.writeByte_font (s : State) (a : Nat) (b : Byte) : (s.writeByte a b).font = s.font := rfl

/-- A read after a write to the same place gives the value written, and a write leaves every other place alone. -/
theorem State.readByte_writeByte (s : State) (a a' : Nat) (b : Byte) :
    (s.writeByte a b).readByte a' = if a' = a then b else s.readByte a' := by
  simp only [State.readByte, State.writeByte, State.setMem_mem, State.setMem_font]
  by_cases hb : b = resetByte s.font a
  · rw [if_pos hb, Memory.lookup_erase]
    by_cases ha : a' = a
    · subst ha; simp [hb]
    · simp [ha]
  · rw [if_neg hb, Memory.lookup_insert]
    by_cases ha : a' = a <;> simp [ha]

/-- A write to a memory address keeps the canonical form. -/
theorem State.wf_writeByte (s : State) (a : Nat) (b : Byte) (ha : a < 4096)
    (h : Memory.wf s.font s.mem = true) : Memory.wf s.font (s.writeByte a b).mem = true := by
  simp only [State.writeByte, State.setMem_mem]
  split
  · exact Memory.wf_erase _ _ _ h
  next hb => exact Memory.wf_insert _ _ _ _ ha hb h

/-! ### Runs of bytes -/

/-- A run of stores changes the memory's list and nothing else. -/
theorem State.storeBytes_eq (s : State) (a : Nat) (bs : List Byte) :
    s.storeBytes a bs = s.setMem (s.storeBytes a bs).mem := by
  induction bs generalizing s a with
  | nil => rfl
  | cons b bs ih => rw [State.storeBytes, ih]; rfl

@[simp] theorem State.storeBytes_font (s : State) (a : Nat) (bs : List Byte) :
    (s.storeBytes a bs).font = s.font := by rw [State.storeBytes_eq]; rfl

/-- After a run of stores, the stored bytes are read back and every other byte is as before. -/
theorem State.readByte_storeBytes (s : State) (a a' : Nat) (bs : List Byte) :
    (s.storeBytes a bs).readByte a' =
      if h : a ≤ a' ∧ a' < a + bs.length then bs[a' - a]'(by omega) else s.readByte a' := by
  induction bs generalizing s a with
  | nil => rw [dif_neg (by simp)]; rfl
  | cons b bs ih =>
    rw [State.storeBytes, ih]
    by_cases h1 : a' = a
    · subst h1; simp [State.readByte_writeByte]
    · by_cases h2 : a + 1 ≤ a' ∧ a' < a + 1 + bs.length
      · rw [dif_pos h2, dif_pos (by simp; omega)]
        obtain ⟨k, rfl⟩ : ∃ k, a' = a + 1 + k := ⟨a' - (a + 1), by omega⟩
        simp [show a + 1 + k - (a + 1) = k by omega, show a + 1 + k - a = k + 1 by omega]
      · rw [dif_neg h2, dif_neg (by simp; omega), State.readByte_writeByte, if_neg h1]

/-- A run of stores inside memory keeps the canonical form. -/
theorem State.wf_storeBytes (s : State) (a : Nat) (bs : List Byte) (ha : a + bs.length ≤ 4096)
    (h : Memory.wf s.font s.mem = true) : Memory.wf s.font (s.storeBytes a bs).mem = true := by
  induction bs generalizing s a with
  | nil => exact h
  | cons b bs ih =>
    simp only [List.length_cons] at ha
    rw [State.storeBytes]
    exact ih (s.writeByte a b) (a + 1) (by omega) (State.wf_writeByte s a b (by omega) h)

/-- The reset state's memory, which lists nothing, has the canonical form, whatever the font. -/
theorem Memory.wf_reset (font : Config.Font) : Memory.wf font State.reset.mem = true := rfl

end Sys2Proof.Machine
end

