-- ==== Sys2Proof/Laws/Ops.lean ====
section
/-! SUPPORT. One lemma per shared operation, saying once everything it can do. -/

namespace Sys2Proof.Machine

open Sys2Proof

/-! ### Call stack -/

theorem State.push_eq_none (s : State) (w : Word) : s.push w = none ↔ s.sp.val = 16 := by
  have := s.sp.isLt
  unfold State.push; split
  · simp; omega
  · simp; omega

/-- A push that succeeds writes the entry at sp and increments sp. -/
theorem State.push_eq_some {s t : State} {w : Word} (h : s.push w = some t) :
    ∃ hs : s.sp.val < 16, t = { s with stack := s.stack.set s.sp.val w, sp := ⟨s.sp.val + 1, by omega⟩ } := by
  unfold State.push at h
  split at h
  next hs => exact ⟨hs, (Option.some.inj h).symm⟩
  · cases h

theorem State.pop_eq_none (s : State) : s.pop = none ↔ s.sp.val = 0 := by
  unfold State.pop; split
  · simp; omega
  · simp; omega

/-- A pop that succeeds decrements sp and gives the entry there; every entry keeps its value. -/
theorem State.pop_eq_some {s t : State} {w : Word} (h : s.pop = some (w, t)) :
    ∃ hs : 0 < s.sp.val, w = s.stack[s.sp.val - 1]'(by omega) ∧
      t = { s with sp := ⟨s.sp.val - 1, by omega⟩ } := by
  unfold State.pop at h
  split at h
  next hs => cases h; exact ⟨hs, rfl, rfl⟩
  · cases h

/-! ### Index-relative access -/

theorem State.accessible_iff (s : State) (n : Nat) :
    s.accessible n = true ↔ n = 0 ∨ s.I.toNat + n ≤ 4096 := by
  simp only [State.accessible, Bool.or_eq_true, decide_eq_true_eq]
  rfl

/-- A checked access leaves either the instruction's state or the `MemoryOutOfRange` fault. -/
theorem checked_cases (op : Word) (n : Nat) (s t : State) :
    (s.accessible n = true ∧ checked op n s t = .next t) ∨
    (s.accessible n = false ∧ checked op n s t =
      .next (s.takeFault .memoryOutOfRange (some op) (s.pc - 2) (some s.lowestOutside))) := by
  unfold checked raise
  cases h : s.accessible n <;> simp

theorem State.lowestOutside_toNat (s : State) : s.lowestOutside.toNat = max s.I.toNat 4096 := by
  have := s.I.isLt
  simp only [State.lowestOutside, BitVec.toNat_ofNat, Config.memSize]
  omega

/-! ### Register ranges -/

theorem mem_regsUpTo (x k : Reg) : k ∈ regsUpTo x ↔ k ≤ x := by revert x k; decide

theorem length_regsUpTo (x : Reg) : (regsUpTo x).length = x.val + 1 := by revert x; decide

theorem getElem_regsUpTo (x : Reg) (k : Nat) (h : k < (regsUpTo x).length) : ((regsUpTo x)[k]).val = k := by
  simp [regsUpTo]

theorem State.length_valuesUpTo (s : State) (x : Reg) : (s.valuesUpTo x).length = x.val + 1 := by
  simp [State.valuesUpTo, length_regsUpTo]

/-- Loading a list of registers changes the registers and nothing else. -/
theorem State.loadList_eq (s : State) (ks : List Reg) : s.loadList ks = { s with V := (s.loadList ks).V } := by
  induction ks generalizing s with
  | nil => rfl
  | cons k ks ih => rw [State.loadList, ih]; rfl

/-- After loading, each listed register holds its memory byte and every other is as before. -/
theorem State.loadList_getElem (s : State) (ks : List Reg) (q : Reg) :
    (s.loadList ks).V[q] = if q ∈ ks then s.readByte (s.I.toNat + q.val) else s.V[q] := by
  induction ks generalizing s with
  | nil => simp [State.loadList]
  | cons k ks ih =>
    rw [State.loadList, ih]
    simp only [State.setV_readByte, State.setV_I, State.setV_getElem, State.indexAddr, List.mem_cons]
    by_cases h1 : q ∈ ks
    · simp [h1]
    · by_cases h2 : q = k
      · subst h2; simp
      · simp [h1, h2]

/-! ### A result and its flag -/

/-- The flag is written last: VF holds it, even where it is the result's own register (R22). -/
theorem State.setResult_getElem (s : State) (x q : Reg) (r flag : Byte) :
    (s.setResult x r flag).V[q] = if q = VF then flag else if q = x then r else s.V[q] := by
  rw [State.setResult, State.setV_getElem, State.setV_getElem]

/-- Writing a result and its flag changes the registers and nothing else. -/
theorem State.setResult_eq (s : State) (x : Reg) (r flag : Byte) :
    s.setResult x r flag = { s with V := (s.setResult x r flag).V } := rfl

/-! ### Fault codes -/

/-- A fault's code is 1 to 6, and no two kinds share one. -/
theorem FaultKind.code_range (k : FaultKind) : 1 ≤ k.code ∧ k.code ≤ 6 := by cases k <;> decide

theorem FaultKind.code_inj (k l : FaultKind) : k.code = l.code ↔ k = l := by cases k <;> cases l <;> decide

/-! ### Keys -/

theorem keyOf_eq_some {v : Byte} {k : Reg} : keyOf v = some k ↔ v.toNat = k.val := by
  have := k.isLt
  unfold keyOf
  split
  · simp [Fin.ext_iff]
  · simp; omega

theorem keyOf_eq_none {v : Byte} : keyOf v = none ↔ 16 ≤ v.toNat := by
  unfold keyOf
  split
  · simp; omega
  · simp; omega

/-- The key found is pressed and is the least pressed one. -/
theorem lowestKey_eq_some {keys : Vector Bool 16} {k : Reg} (h : lowestKey keys = some k) :
    keys[k] = true ∧ ∀ j : Reg, j < k → keys[j] = false := by
  obtain ⟨hk, as, bs, hsplit, has⟩ := List.find?_eq_some_iff_append.1 h
  refine ⟨hk, fun j hj => ?_⟩
  have hmem : j ∈ as ++ k :: bs := hsplit ▸ List.mem_finRange j
  have hsorted : (as ++ k :: bs).Pairwise (· < ·) := hsplit ▸ List.pairwise_lt_finRange 16
  rcases List.mem_append.1 hmem with hj' | hj'
  · simpa using has j hj'
  · rcases List.mem_cons.1 hj' with rfl | hj'
    · exact absurd hj (lt_irrefl _)
    · have := (List.pairwise_cons.1 (List.pairwise_append.1 hsorted).2.1).1 j hj'
      exact absurd hj (not_lt.2 this.le)

theorem lowestKey_eq_none {keys : Vector Bool 16} : lowestKey keys = none ↔ ∀ k : Reg, keys[k] = false := by
  simp [lowestKey]

/-! ### Display -/

theorem Display.pixel_setPixel (d : Display) (c c' : Fin 64) (r r' : Fin 32) (b : Bool) :
    (d.setPixel c r b).pixel c' r' = if c' = c ∧ r' = r then b else d.pixel c' r' := by
  simp only [Display.pixel, Display.setPixel, Fin.getElem_fin, Vector.getElem_set]
  by_cases hr : r' = r
  · subst hr
    by_cases hc : c' = c
    · subst hc; simp
    · have : c.val ≠ c'.val := fun h => hc (Fin.ext h.symm)
      simp [hc, this]
  · have : r.val ≠ r'.val := fun h => hr (Fin.ext h.symm)
    simp [hr, this]

theorem Display.pixel_blank (c : Fin 64) (r : Fin 32) : Display.blank.pixel c r = false := by
  simp [Display.pixel, Display.blank]

/-- Two displays with the same pixels are the same display. -/
theorem Display.ext_pixel {d e : Display} (h : ∀ c r, d.pixel c r = e.pixel c r) : d = e := by
  ext r hr c hc
  simpa [Display.pixel] using h ⟨c, hc⟩ ⟨r, hr⟩

end Sys2Proof.Machine
end

