-- ==== Sys2Proof/Laws/PerInstr.lean ====
section
/-! SUPPORT. Facts about instructions as terms, one lemma per constructor. -/

/-- The decoder reads an instruction back from its own word. -/
def Sys2Proof.Laws.RoundTrip.Statement (i : Sys2Proof.Instr) : Prop :=
  Sys2Proof.decode (Sys2Proof.encode i) = .ok i

namespace Sys2Proof.Laws.RoundTrip

open Sys2Proof

theorem nop : Statement .nop := by simp [Statement, encode, decode, n1, decodeZ]

theorem cls : Statement .cls := by simp [Statement, encode, decode, n1, decodeZ]

theorem ret : Statement .ret := by simp [Statement, encode, decode, n1, decodeZ]

theorem jp (nnn : Imm12) : Statement (.jp nnn) := by simp [Statement, encode, decode]

theorem call (nnn : Imm12) : Statement (.call nnn) := by simp [Statement, encode, decode]

theorem seImm (x : Reg) (nn : Byte) : Statement (.seImm x nn) := by simp [Statement, encode, decode]

theorem sneImm (x : Reg) (nn : Byte) : Statement (.sneImm x nn) := by simp [Statement, encode, decode]

theorem seReg (x y : Reg) : Statement (.seReg x y) := by simp [Statement, encode, decode]

theorem ldImm (x : Reg) (nn : Byte) : Statement (.ldImm x nn) := by simp [Statement, encode, decode]

theorem addImm (x : Reg) (nn : Byte) : Statement (.addImm x nn) := by simp [Statement, encode, decode]

theorem ldReg (x y : Reg) : Statement (.ldReg x y) := by simp [Statement, encode, decode, decode8]

theorem orReg (x y : Reg) : Statement (.orReg x y) := by simp [Statement, encode, decode, decode8]

theorem andReg (x y : Reg) : Statement (.andReg x y) := by simp [Statement, encode, decode, decode8]

theorem xorReg (x y : Reg) : Statement (.xorReg x y) := by simp [Statement, encode, decode, decode8]

theorem addReg (x y : Reg) : Statement (.addReg x y) := by simp [Statement, encode, decode, decode8]

theorem subReg (x y : Reg) : Statement (.subReg x y) := by simp [Statement, encode, decode, decode8]

theorem shr (x y : Reg) : Statement (.shr x y) := by simp [Statement, encode, decode, decode8]

theorem subnReg (x y : Reg) : Statement (.subnReg x y) := by simp [Statement, encode, decode, decode8]

theorem shl (x y : Reg) : Statement (.shl x y) := by simp [Statement, encode, decode, decode8]

theorem sneReg (x y : Reg) : Statement (.sneReg x y) := by simp [Statement, encode, decode]

theorem ldI (nnn : Imm12) : Statement (.ldI nnn) := by simp [Statement, encode, decode]

theorem jpV0 (nnn : Imm12) : Statement (.jpV0 nnn) := by simp [Statement, encode, decode]

theorem rnd (x : Reg) (nn : Byte) : Statement (.rnd x nn) := by simp [Statement, encode, decode]

theorem drw (x y : Reg) (n : Nibble) : Statement (.drw x y n) := by simp [Statement, encode, decode]

theorem skp (x : Reg) : Statement (.skp x) := by simp [Statement, encode, decode, decodeE]

theorem sknp (x : Reg) : Statement (.sknp x) := by simp [Statement, encode, decode, decodeE]

theorem ldVxDT (x : Reg) : Statement (.ldVxDT x) := by simp [Statement, encode, decode, decodeF]

theorem ldVxK (x : Reg) : Statement (.ldVxK x) := by simp [Statement, encode, decode, decodeF]

theorem ldDTVx (x : Reg) : Statement (.ldDTVx x) := by simp [Statement, encode, decode, decodeF]

theorem ldSTVx (x : Reg) : Statement (.ldSTVx x) := by simp [Statement, encode, decode, decodeF]

theorem addI (x : Reg) : Statement (.addI x) := by simp [Statement, encode, decode, decodeF]

theorem ldF (x : Reg) : Statement (.ldF x) := by simp [Statement, encode, decode, decodeF]

theorem ldB (x : Reg) : Statement (.ldB x) := by simp [Statement, encode, decode, decodeF]

theorem storeRegs (x : Reg) : Statement (.storeRegs x) := by simp [Statement, encode, decode, decodeF]

theorem loadRegs (x : Reg) : Statement (.loadRegs x) := by simp [Statement, encode, decode, decodeF]

end Sys2Proof.Laws.RoundTrip
end

