-- ==== Sys2Proof/Laws/Step.lean ====
section
/-! SUPPORT. Everything a tick can do, said once. -/

namespace Sys2Proof.Machine

open Sys2Proof

theorem State.fetchable_iff (s : State) : s.fetchable = true ↔ s.pc.toNat < 4095 := by
  simp only [State.fetchable, decide_eq_true_eq]; rfl

theorem State.halted_eq_false (s : State) : s.halted = false ↔ s.fault = none := by
  simp [State.halted]

/-- A tick does one of four things: nothing (halted), the fetch fault, the rule of the decoded instruction on the
state after fetch, or the fault of an unrecognised word. -/
theorem step_cases (s : State) :
    (s.fault ≠ none ∧ step s = .next s) ∨
    (s.fault = none ∧ 4095 ≤ s.pc.toNat ∧ step s = .next s.fetchFault) ∨
    (s.fault = none ∧ s.pc.toNat < 4095 ∧ ∃ i, decode s.fetchWord = .ok i ∧ step s = exec i s.afterFetch) ∨
    (s.fault = none ∧ s.pc.toNat < 4095 ∧ ∃ e, decode s.fetchWord = .error e ∧
      step s = .next (s.afterFetch.takeFault .unimplementedOpcode (some s.fetchWord) s.pc none)) := by
  have hf := s.fetchable_iff
  unfold step
  cases hh : s.halted
  · have hn := s.halted_eq_false.1 hh
    cases hb : s.fetchable
    · refine .inr (.inl ⟨hn, ?_, rfl⟩)
      rw [hb] at hf; simp at hf; omega
    · have hp := hf.1 hb
      cases hd : decode s.fetchWord with
      | ok i => exact .inr (.inr (.inl ⟨hn, hp, i, rfl, rfl⟩))
      | error e =>
        refine .inr (.inr (.inr ⟨hn, hp, e, rfl, ?_⟩))
        simp [unimplemented, raise]
  · refine .inl ⟨fun h => ?_, rfl⟩
    rw [s.halted_eq_false.2 h] at hh; cases hh

/-- An unrecognised word is rejected with the word itself. -/
theorem decode_error_eq {w : Word} {e : DecodeError} (h : decode w = .error e) : e = .unimplementedOpcode w := by
  simp only [decode, decodeZ, decode8, decodeE, decodeF] at h
  repeat' split at h
  all_goals (cases h; try rfl)

end Sys2Proof.Machine
end

