-- ==== Sys2Proof/Tests/Slice0.lean ====
section
/-! SUPPORT. The model's own tests, and a witness for the hypotheses of every statement. Expected values come from
spec/95_test_vectors.md (the vector's name stands beside each test) or from the encodings of spec/30_encoding.md. -/

namespace Sys2Proof.Tests

open Sys2Proof Sys2Proof.Machine

/-! ### Helpers -/

/-- The state a result leaves; the start state where it left none. -/
def after (s : State) : Result → State
  | .next t => t
  | .fault _ => s
  | .refused _ => s

/-- One tick on the word `w` placed at pc. -/
def ran (w : Nat) (s : State) : State := after s (step (s.withFetchWord 16 w))

/-- A start state with a pc and the index register set. -/
def at_ (pc I : Word) : State := (State.reset.setPc pc).setI I

/-- The state with `n` stack entries occupied. -/
def depth (n : Fin 17) (s : State) : State := { s with sp := n }

/-- A fault recorded at 0x200, as V-C7 leaves it. -/
def record : FaultRecord := ⟨.unimplementedOpcode, some 0xFFFF, 0x200, none⟩

/-- A halted state (V-C9, V-C10). -/
def halted : State := { State.reset with fault := some record, DT := 3, ST := 1 }

/-! ### WellFormed smoke: a word of each kind that the table's checks refuse (V-C8, R75), and one that it admits -/

theorem test_wf_admits : wellFormedWord 0x8AB4 = true ∧ wellFormedWord 0x00EE = true := by decide
theorem test_wf_first_0 : wellFormedWord 0x0001 = false ∧ wellFormedWord 0x00E1 = false ∧ wellFormedWord 0x0123 = false := by
  decide
theorem test_wf_first_5 : wellFormedWord 0x5001 = false ∧ wellFormedWord 0x512F = false := by decide
theorem test_wf_first_8 : wellFormedWord 0x8008 = false ∧ wellFormedWord 0x800F = false := by decide
theorem test_wf_first_9 : wellFormedWord 0x900F = false ∧ wellFormedWord 0x9121 = false := by decide
theorem test_wf_first_E : wellFormedWord 0xE000 = false ∧ wellFormedWord 0xE09F = false := by decide
theorem test_wf_first_F : wellFormedWord 0xF000 = false ∧ wellFormedWord 0xF0FF = false ∧ wellFormedWord 0xF10B = false := by
  decide

/-! ### Decode: a word of every row, written bit by bit from the layouts of R71 and the nibbles of R73 -/

theorem test_decode_Z :
    decode 0b0000_0000_0000_0000#16 = .ok .nop ∧ decode 0b0000_0000_1110_0000#16 = .ok .cls ∧
    decode 0b0000_0000_1110_1110#16 = .ok .ret := by decide
theorem test_decode_NNN :
    decode 0b0001_1010_1011_1100#16 = .ok (.jp 0xABC) ∧ decode 0b0010_0011_0000_0001#16 = .ok (.call 0x301) ∧
    decode 0b1010_0010_1111_0000#16 = .ok (.ldI 0x2F0) ∧ decode 0b1011_0001_0010_0011#16 = .ok (.jpV0 0x123) := by decide
theorem test_decode_XNN :
    decode 0b0011_1010_0111_1111#16 = .ok (.seImm 0xA 0x7F) ∧ decode 0b0100_0011_0100_0010#16 = .ok (.sneImm 3 0x42) ∧
    decode 0b0110_1010_0011_1100#16 = .ok (.ldImm 0xA 0x3C) ∧ decode 0b0111_0010_1000_0001#16 = .ok (.addImm 2 0x81) ∧
    decode 0b1100_0101_0000_1111#16 = .ok (.rnd 5 0x0F) := by decide
theorem test_decode_XY_skips :
    decode 0b0101_0001_0010_0000#16 = .ok (.seReg 1 2) ∧ decode 0b1001_0001_0010_0000#16 = .ok (.sneReg 1 2) := by decide
theorem test_decode_XY_logic :
    decode 0b1000_1010_1011_0000#16 = .ok (.ldReg 0xA 0xB) ∧ decode 0b1000_1010_1011_0001#16 = .ok (.orReg 0xA 0xB) ∧
    decode 0b1000_1010_1011_0010#16 = .ok (.andReg 0xA 0xB) ∧ decode 0b1000_1010_1011_0011#16 = .ok (.xorReg 0xA 0xB) := by
  decide
theorem test_decode_XY_arithmetic :
    decode 0b1000_1010_1011_0100#16 = .ok (.addReg 0xA 0xB) ∧ decode 0b1000_1010_1011_0101#16 = .ok (.subReg 0xA 0xB) ∧
    decode 0b1000_1010_1011_0110#16 = .ok (.shr 0xA 0xB) ∧ decode 0b1000_1010_1011_0111#16 = .ok (.subnReg 0xA 0xB) ∧
    decode 0b1000_1010_1011_1110#16 = .ok (.shl 0xA 0xB) := by decide
theorem test_decode_XYN : decode 0b1101_0001_0010_0101#16 = .ok (.drw 1 2 5) := by decide
theorem test_decode_X_keys :
    decode 0b1110_0101_1001_1110#16 = .ok (.skp 5) ∧ decode 0b1110_0101_1010_0001#16 = .ok (.sknp 5) ∧
    decode 0b1111_0011_0000_1010#16 = .ok (.ldVxK 3) := by decide
theorem test_decode_X_timers :
    decode 0b1111_0011_0000_0111#16 = .ok (.ldVxDT 3) ∧ decode 0b1111_0001_0001_0101#16 = .ok (.ldDTVx 1) ∧
    decode 0b1111_0001_0001_1000#16 = .ok (.ldSTVx 1) := by decide
theorem test_decode_X_index :
    decode 0b1111_0111_0001_1110#16 = .ok (.addI 7) ∧ decode 0b1111_0111_0010_1001#16 = .ok (.ldF 7) ∧
    decode 0b1111_0111_0011_0011#16 = .ok (.ldB 7) ∧ decode 0b1111_0010_0101_0101#16 = .ok (.storeRegs 2) ∧
    decode 0b1111_0010_0110_0101#16 = .ok (.loadRegs 2) := by decide
theorem test_decode_rejects :
    decode 0x801F = .error (.unimplementedOpcode 0x801F) ∧ decode 0x0123 = .error (.unimplementedOpcode 0x0123) ∧
    decodeBytes [0x80] = .error .truncated := by decide
theorem test_decode_bytes : decodeBytes [0x12, 0x34, 0x56] = .ok (.jp 0x234, [0x56]) := by decide
theorem test_decode_table_word : decodeTableWord 16 0xD125 = some (.drw 1 2 5) ∧ decodeTableWord 16 0xFFFF = none := by decide

/-! ### One step of each instruction -/

/-- V-C1. -/
theorem test_nop : (ran 0x0000 State.reset).pc = 0x202 ∧ (ran 0x0000 State.reset).fault = none := by decide

/-- V-D1. -/
theorem test_cls :
    (ran 0x00E0 ((State.reset.setDisplay (State.reset.display.setPixel 9 4 true)).setV 15 7)).display = Display.blank ∧
    (ran 0x00E0 (State.reset.setV 15 7)).V[15] = 7 := by decide

/-- V-F8. -/
theorem test_ret :
    let s := { at_ 0x300 0 with sp := 1, stack := State.reset.stack.set 0 0x202 }
    (ran 0x00EE s).pc = 0x202 ∧ (ran 0x00EE s).sp = 0 ∧ (ran 0x00EE s).stack[0] = 0x202 := by decide
/-- V-F9. -/
theorem test_ret_underflow :
    (ran 0x00EE State.reset).fault = some ⟨.stackUnderflow, some 0x00EE, 0x200, none⟩ ∧
    (ran 0x00EE State.reset).pc = 0x200 := by decide

/-- V-F1, V-F2. -/
theorem test_jp : (ran 0x1ABC State.reset).pc = 0xABC ∧ (ran 0x1201 State.reset).pc = 0x201 := by decide

/-- V-F5. -/
theorem test_call :
    let t := ran 0x2300 (depth 15 State.reset)
    t.stack[15] = 0x202 ∧ t.sp = 16 ∧ t.pc = 0x300 := by decide
/-- V-F6. -/
theorem test_call_overflow :
    let t := ran 0x2300 (depth 16 State.reset)
    t.fault = some ⟨.stackOverflow, some 0x2300, 0x200, none⟩ ∧ t.sp = 16 ∧ t.pc = 0x200 := by decide

/-- V-F10, V-F11. -/
theorem test_seImm :
    (ran 0x3342 (State.reset.setV 3 0x42)).pc = 0x204 ∧ (ran 0x3342 (State.reset.setV 3 0x41)).pc = 0x202 := by decide
/-- V-F12, V-F13. -/
theorem test_sneImm :
    (ran 0x4342 (State.reset.setV 3 0x41)).pc = 0x204 ∧ (ran 0x4342 (State.reset.setV 3 0x42)).pc = 0x202 := by decide
/-- V-F14, V-F15. -/
theorem test_seReg :
    (ran 0x5120 ((State.reset.setV 1 0x10).setV 2 0x10)).pc = 0x204 ∧
    (ran 0x5120 ((State.reset.setV 1 0x10).setV 2 0x11)).pc = 0x202 := by decide
/-- V-F17, V-F18. -/
theorem test_sneReg :
    (ran 0x9120 ((State.reset.setV 1 0x10).setV 2 0x11)).pc = 0x204 ∧ (ran 0x9550 (State.reset.setV 5 9)).pc = 0x202 := by
  decide
/-- V-F23, V-F24. -/
theorem test_jpV0 :
    (ran 0xBFFF (State.reset.setV 0 0xFF)).pc = 0x10FE ∧
    (ran 0xB1FF ((State.reset.setV 0 1).setV 1 0x50)).pc = 0x200 := by decide

/-- V-A1. -/
theorem test_ldImm : (ran 0x6A3C State.reset).V[10] = 0x3C := by decide
/-- V-A2, V-A3. -/
theorem test_addImm :
    let t := ran 0x7201 ((State.reset.setV 2 0xFF).setV 15 0x55)
    t.V[2] = 0 ∧ t.V[15] = 0x55 ∧ (ran 0x7F01 (State.reset.setV 15 0xFF)).V[15] = 0 := by decide
/-- V-A5. -/
theorem test_ldReg : (ran 0x8010 (State.reset.setV 1 0x55)).V[0] = 0x55 := by decide
/-- V-A6, V-A10. -/
theorem test_orReg :
    (ran 0x8011 ((State.reset.setV 0 0xF0).setV 1 0x0F)).V[0] = 0xFF ∧
    (ran 0x8F01 ((State.reset.setV 15 0x0F).setV 0 0xF0)).V[15] = 0xFF := by decide
/-- V-A7. -/
theorem test_andReg : (ran 0x8012 ((State.reset.setV 0 0xF0).setV 1 0x3C)).V[0] = 0x30 := by decide
/-- V-A8, V-A9. -/
theorem test_xorReg :
    (ran 0x8013 ((State.reset.setV 0 0xF0).setV 1 0x3C)).V[0] = 0xCC ∧ (ran 0x8003 (State.reset.setV 0 0x5A)).V[0] = 0 := by
  decide
/-- V-E2. -/
theorem test_addReg :
    let t := ran 0x8014 ((State.reset.setV 0 0xFF).setV 1 1)
    t.V[0] = 0 ∧ t.V[15] = 1 ∧ t.pc = 0x202 := by decide
/-- V-A14: the flag is written last. -/
theorem test_addReg_VF : (ran 0x8F14 ((State.reset.setV 15 0x80).setV 1 0x90)).V[15] = 1 := by decide
/-- V-A18. -/
theorem test_subReg :
    let t := ran 0x8015 ((State.reset.setV 0 0x10).setV 1 0x20)
    t.V[0] = 0xF0 ∧ t.V[15] = 0 := by decide
/-- V-A17: equal operands do not borrow. -/
theorem test_subReg_equal :
    let t := ran 0x8015 ((State.reset.setV 0 0x42).setV 1 0x42)
    t.V[0] = 0 ∧ t.V[15] = 1 := by decide
/-- V-A21: V1 is not read. -/
theorem test_shr :
    let t := ran 0x8016 ((State.reset.setV 0 3).setV 1 0xAA)
    t.V[0] = 1 ∧ t.V[15] = 1 := by decide
/-- V-A25. -/
theorem test_subnReg :
    let t := ran 0x8017 ((State.reset.setV 0 0x10).setV 1 0x20)
    t.V[0] = 0x10 ∧ t.V[15] = 1 := by decide
/-- V-A28: the flag is written last. -/
theorem test_subnReg_VF : (ran 0x8F17 ((State.reset.setV 15 0x20).setV 1 0x10)).V[15] = 0 := by decide
/-- V-E3. -/
theorem test_shl :
    let t := ran 0x800E (State.reset.setV 0 0x81)
    t.V[0] = 2 ∧ t.V[15] = 1 := by decide
/-- V-A32, for whatever byte is drawn. -/
theorem test_rnd :
    (after State.reset (exec (.rnd 0 0x0F) State.reset)).V[0] = Config.randomByte 0 &&& 0x0F := rfl

/-- V-M1. -/
theorem test_ldI : (ran 0xA2F0 State.reset).I = 0x2F0 := by decide
/-- V-M2, V-M3. -/
theorem test_addI :
    (ran 0xF01E ((at_ 0x200 0x100).setV 0 0x20)).I = 0x120 ∧ (ran 0xF01E ((at_ 0x200 0xFFFF).setV 0 1)).I = 0 := by decide
/-- V-E8 at the digit F, V-M6. -/
theorem test_ldF : (ran 0xF029 (State.reset.setV 0 0xF)).I = 0x4B ∧ (ran 0xF029 (State.reset.setV 0 0xFF)).I = 0x4FB := by
  decide
/-- V-M8. -/
theorem test_ldB :
    let t := ran 0xF033 ((at_ 0x200 0x300).setV 0 128)
    t.readByte 0x300 = 1 ∧ t.readByte 0x301 = 2 ∧ t.readByte 0x302 = 8 ∧ t.I = 0x300 := by decide
/-- V-M11. -/
theorem test_ldB_outside :
    let t := ran 0xF033 ((at_ 0x200 0xFFE).setV 0 200)
    t.fault = some ⟨.memoryOutOfRange, some 0xF033, 0x200, some 0x1000⟩ ∧ t.readByte 0xFFE = 0 := by decide
/-- V-M13. -/
theorem test_storeRegs :
    let t := ran 0xF255 ((((at_ 0x200 0x300).setV 0 0x11).setV 1 0x22).setV 2 0x33)
    t.readByte 0x300 = 0x11 ∧ t.readByte 0x302 = 0x33 ∧ t.readByte 0x303 = 0 ∧ t.I = 0x300 := by decide
/-- V-M17: no byte is written. -/
theorem test_storeRegs_outside :
    let t := ran 0xF355 ((at_ 0x200 0xFFD).setV 0 1)
    t.fault = some ⟨.memoryOutOfRange, some 0xF355, 0x200, some 0x1000⟩ ∧ t.readByte 0xFFD = 0 := by decide
/-- R166, from the rule: the last register in range is loaded, the next one is not. -/
theorem test_loadRegs :
    let t := ran 0xF165 ((at_ 0x200 0xFFE).storeBytes 0xFFE [0xAA, 0xBB])
    t.V[0] = 0xAA ∧ t.V[1] = 0xBB ∧ t.V[2] = 0 ∧ t.I = 0xFFE := by decide

/-- V-D4: the origin wraps, and the sprite wraps. -/
theorem test_drw_wraps :
    let t := ran 0xD011 ((((at_ 0x200 0x300).setV 0 0xFF).setV 1 0x21).writeByte 0x300 0xC0)
    t.display.pixel 63 1 = true ∧ t.display.pixel 0 1 = true ∧ t.display.pixel 1 1 = false ∧ t.V[15] = 0 := by decide
/-- V-D10: the origin is read from VF, which is then written. -/
theorem test_drw_collides :
    let s := ((at_ 0x200 0x300).setV 15 20).setV 1 3
    let t := ran 0xDF11 ((s.writeByte 0x300 0x80).setDisplay (s.display.setPixel 20 3 true))
    t.display.pixel 20 3 = false ∧ t.V[15] = 1 := by decide

/-- V-K1, V-K2. -/
theorem test_skp :
    (ran 0xE09E ((State.reset.setV 0 5).setKey 5 true)).pc = 0x204 ∧ (ran 0xE09E (State.reset.setV 0 5)).pc = 0x202 := by
  decide
/-- V-K5. -/
theorem test_skp_no_key :
    (ran 0xE09E (State.reset.setV 0 16)).fault = some ⟨.keyIndexOutOfRange, some 0xE09E, 0x200, none⟩ := by decide
/-- V-K3, V-K4. -/
theorem test_sknp :
    (ran 0xE0A1 (State.reset.setV 0 5)).pc = 0x204 ∧ (ran 0xE0A1 ((State.reset.setV 0 5).setKey 5 true)).pc = 0x202 := by
  decide
/-- V-K7. -/
theorem test_ldVxDT :
    let t := ran 0xF307 (State.reset.setDT 0x3C)
    t.V[3] = 0x3C ∧ t.DT = 0x3C := by decide
/-- V-K8. -/
theorem test_ldVxK_waits : (ran 0xF30A State.reset).pc = 0x200 ∧ (ran 0xF30A State.reset).V[3] = 0 := by decide
/-- V-K9. -/
theorem test_ldVxK :
    let t := ran 0xF30A ((State.reset.setKey 11 true).setKey 9 true)
    t.V[3] = 9 ∧ t.pc = 0x202 := by decide
/-- V-K11. -/
theorem test_ldDTVx : (ran 0xF115 (State.reset.setV 1 0x3C)).DT = 0x3C := by decide
/-- V-K12. -/
theorem test_ldSTVx : (ran 0xF118 (State.reset.setV 1 2)).ST = 2 := by decide

/-! ### The tick and the host's commands -/

/-- V-C2: an odd fetch. -/
theorem test_odd_fetch : (ran 0x6123 (at_ 0x201 0)).V[1] = 0x23 ∧ (ran 0x6123 (at_ 0x201 0)).pc = 0x203 := by decide
/-- V-C5. -/
theorem test_fetch_fault :
    (after State.reset (step (at_ 0xFFF 0))).fault = some ⟨.fetchOutOfRange, none, 0xFFF, none⟩ := by decide
/-- V-C7. -/
theorem test_unimplemented : (ran 0xFFFF State.reset).fault = some record ∧ (ran 0xFFFF State.reset).pc = 0x200 := by decide
/-- V-C10. -/
theorem test_tickTimers : halted.tickTimers.DT = 2 ∧ halted.tickTimers.ST = 0 ∧ halted.tickTimers.fault = some record := by
  decide
/-- V-E10: the word read back after `load`, and after `reset`. -/
theorem test_load_then_reset :
    (State.reset.load [0xAB, 0xCD]).1.readWord 0x200 = 0xABCD ∧
    (State.reset.load [0xAB, 0xCD]).1.resetCore.readWord 0x200 = 0 := by decide
/-- V-K15, V-K16. -/
theorem test_keyPress :
    State.reset.keyPress 16 true = (State.reset, .invalidKeyIndex) ∧ (State.reset.keyPress 3 true).1.keys[3] = true := by decide
/-- The canonical form: writing what an unlisted address reads as lists nothing. -/
theorem test_canonical_memory : ((State.reset.writeByte 0x300 7).writeByte 0x300 0).mem = [] := by decide

/-! ### Witnesses: for each statement with hypotheses, a state and operands that meet them, at the boundaries -/

/-- For EncodeOfDecode: a word that decodes. -/
theorem witness_EncodeOfDecode : decode 0xDFFF = .ok (.drw 15 15 15) := by decide
/-- For UnrecognisedWordsFault: a listed word of each clause, and a state at whose pc the last one stands. -/
theorem witness_UnrecognisedWordsFault :
    (ListedUnrecognised 0x00EF ∧ ListedUnrecognised 0x5001 ∧ ListedUnrecognised 0x900F ∧ ListedUnrecognised 0x800F ∧
      ListedUnrecognised 0xE09F ∧ ListedUnrecognised 0xF066 ∧ ¬ListedUnrecognised 0x800E ∧ ¬ListedUnrecognised 0xE0A1) ∧
    (let s := (at_ 0xFFE 0).withFetchWord 16 0x0001
     s.fault = none ∧ s.pc.toNat < 4095 ∧ joinBytes (s.readByte s.pc.toNat) (s.readByte (s.pc.toNat + 1)) = 0x0001 ∧
      ListedUnrecognised 0x0001) := by
  unfold ListedUnrecognised
  refine ⟨⟨?_, ?_, ?_, ?_, ?_, ?_, ?_, ?_⟩, ?_, ?_, ?_, ?_⟩ <;> decide
/-- For OpcodeRowsAreDisjoint: a row and a word that meets it. -/
theorem witness_OpcodeRowsAreDisjoint :
    (⟨0xF0FF, 0xF065⟩ : OpRow) ∈ opRows ∧ (⟨0xF0FF, 0xF065⟩ : OpRow).holds 0xFF65 = true := by decide

/-- The last pc a word is fetched from, with a word placed there. -/
def lastFetch (w : Nat) (s : State) : State := (s.setPc 0xFFE).withFetchWord 16 w

/-- The hypotheses of a statement about a tick at which an instruction is fetched. -/
def Fetches (s : State) (i : Instr) : Prop :=
  s.fault = none ∧ s.pc.toNat < 4095 ∧ decode (joinBytes (s.readByte s.pc.toNat) (s.readByte (s.pc.toNat + 1))) = .ok i

/-- For TickRunsTheDecodedInstruction: at 0x200 and at the last pc. -/
theorem witness_TickRunsTheDecodedInstruction :
    Fetches (State.reset.withFetchWord 16 0x8014) (.addReg 0 1) ∧ Fetches (lastFetch 0x6007 State.reset) (.ldImm 0 7) := by
  unfold Fetches; decide
/-- For FetchBeyondMemoryFaults: the first pc no word is fetched from, and the one after the last word. -/
theorem witness_FetchBeyondMemoryFaults :
    ((at_ 0xFFF 0).fault = none ∧ 4095 ≤ (at_ 0xFFF 0).pc.toNat) ∧ 4095 ≤ (at_ 0x1000 0).pc.toNat := by decide
/-- For HaltedUntilReset and HostCommandsWorkWhileHalted: a halted state, and a command of each clause. -/
theorem witness_HaltedUntilReset :
    halted.fault = some record ∧ (Command.tickTimers ≠ .reset ∧ Command.tickTimers ≠ .new) ∧
    perform .tickTimers halted = .next (halted.tickTimers, .ok) ∧ (List.replicate 3584 (0x11 : Byte)).length ≤ 3584 :=
  ⟨rfl, ⟨by decide, by decide⟩, rfl, List.length_replicate.le⟩
/-- For FaultsArePrecise, OneFaultKindPerInstruction and FaultCodesAndRecordedFields: a tick that raises a fault, of each clause. -/
theorem witness_FaultsArePrecise :
    (let s := State.reset.withFetchWord 16 0xFFFF
     s.fault = none ∧ (after s (step s)).fault = some record ∧ step s = .next (after s (step s))) ∧
    (let s := lastFetch 0xF033 (at_ 0x200 0xFFE)
     s.fault = none ∧ (after s (step s)).fault = some ⟨.memoryOutOfRange, some 0xF033, 0xFFE, some 0x1000⟩) ∧
    (let s := at_ 0xFFF 0
     s.fault = none ∧ (after s (step s)).fault = some ⟨.fetchOutOfRange, none, 0xFFF, none⟩) :=
  ⟨⟨rfl, by decide, rfl⟩, by decide, by decide⟩
/-- For EveryTickAnswersNext: a tick that completes and a tick that faults. -/
theorem witness_EveryTickAnswersNext :
    (after State.reset (step State.reset)).fault = none ∧ (after halted (step halted)).fault = some record := by decide
/-- For WaitingForAKeyLeavesTheStateAlone. -/
theorem witness_WaitingForAKeyLeavesTheStateAlone :
    Fetches (lastFetch 0xF30A State.reset) (.ldVxK 3) ∧ ∀ k : Reg, (lastFetch 0xF30A State.reset).keys[k] = false := by
  unfold Fetches; decide
/-- For InstructionsChangeOnlyTheirOwn: a state without a fault; for both of its outcomes, a call at 15 and at 16 entries. -/
theorem witness_InstructionsChangeOnlyTheirOwn :
    (depth 15 State.reset).fault = none ∧ (depth 16 State.reset).fault = none ∧
    (after State.reset (exec (.call 0x300) (depth 15 State.reset))).fault = none ∧
    (after State.reset (exec (.call 0x300) (depth 16 State.reset))).fault.isSome = true := by decide
/-- For RegisterWritersAreTheListedOnes: a register that changes. -/
theorem witness_RegisterWritersAreTheListedOnes :
    exec (.ldImm 3 9) State.reset = .next (State.reset.setV 3 9) ∧ (State.reset.setV 3 9).V[(3 : Reg)] ≠ State.reset.V[(3 : Reg)] :=
  ⟨rfl, by decide⟩

/-- For EveryTickKeepsTheInvariant and EveryCommandKeepsTheInvariant: a halted state with a listed byte, a full stack and the fault
record of a fetch at the largest pc meets the invariant, and so does the state after reset. -/
theorem witness_EveryTickKeepsTheInvariant :
    let s : State := { State.reset with pc := 0x10FE, mem := [(0x200, 1), (0xFFF, 2)], sp := 16,
                                        stack := Vector.replicate 16 0x1000,
                                        fault := some ⟨.fetchOutOfRange, none, 0x10FE, none⟩ }
    s.Inv ∧ step s = .next s ∧ State.reset.Inv ∧ step State.reset = .next (after State.reset (step State.reset)) := by
  refine ⟨⟨by decide, by decide, by decide, ?_⟩, rfl, ⟨by decide, by decide, by decide, ?_⟩, rfl⟩
  · intro r h; cases h; simp [FaultRecord.Fits]
  · intro r h; cases h
/-- For EveryCommandKeepsTheInvariant: the largest load, on the state after reset. -/
theorem witness_EveryCommandKeepsTheInvariant :
    State.reset.Inv ∧ (perform (.load [0x11]) State.reset = .next (State.reset.load [0x11])) := by
  refine ⟨⟨by decide, by decide, by decide, ?_⟩, rfl⟩
  intro r h; cases h

/-- For SkippedWordIsNotExecuted: each of the six skips, taken. -/
theorem witness_SkippedWordIsNotExecuted :
    (Fetches (lastFetch 0x3000 State.reset) (.seImm 0 0) ∧ (lastFetch 0x3000 State.reset).V[(0 : Reg)] = 0) ∧
    (Fetches (lastFetch 0x4001 State.reset) (.sneImm 0 1) ∧ (lastFetch 0x4001 State.reset).V[(0 : Reg)] ≠ 1) ∧
    (Fetches (lastFetch 0x5010 State.reset) (.seReg 0 1) ∧
      (lastFetch 0x5010 State.reset).V[(0 : Reg)] = (lastFetch 0x5010 State.reset).V[(1 : Reg)]) ∧
    (let s := lastFetch 0x9010 (State.reset.setV 1 2)
     Fetches s (.sneReg 0 1) ∧ s.V[(0 : Reg)] ≠ s.V[(1 : Reg)]) ∧
    (let s := lastFetch 0xE09E ((State.reset.setV 0 15).setKey 15 true)
     Fetches s (.skp 0) ∧ s.V[(0 : Reg)].toNat = (15 : Reg).val ∧ s.keys[(15 : Reg)] = true) ∧
    (let s := lastFetch 0xE0A1 (State.reset.setV 0 15)
     Fetches s (.sknp 0) ∧ s.V[(0 : Reg)].toNat = (15 : Reg).val ∧ s.keys[(15 : Reg)] = false) := by
  unfold Fetches; decide
/-- For CallPushesTheReturnAddress, ReturnPopsTheReturnAddress and ReturnUndoesCall: sp at the ends of each clause. -/
theorem witness_CallAndReturn :
    (depth 0 State.reset).sp.val < 16 ∧ (depth 15 State.reset).sp.val < 16 ∧ (depth 16 State.reset).sp.val = 16 ∧
    0 < (depth 1 State.reset).sp.val ∧ 0 < (depth 16 State.reset).sp.val ∧ (depth 0 State.reset).sp.val = 0 := by decide
/-- For ReturnUndoesCall: the state the call leaves is one of the states `u` that keep its stack. -/
theorem witness_ReturnUndoesCall :
    let s := depth 15 State.reset
    let t := after s (exec (.call 0x300) s)
    s.sp.val < 16 ∧ exec (.call 0x300) s = .next t ∧ (t.setPc 0x400).stack = t.stack ∧ (t.setPc 0x400).sp = t.sp :=
  ⟨by decide, rfl, rfl, rfl⟩
/-- For AddSetsCarry, SubtractSetsNoBorrow and ShiftsSetTheShiftedOutBit: a destination that is not VF, and sums and differences on
both sides of the boundary. -/
theorem witness_AddSetsCarry :
    (0 : Reg) ≠ 15 ∧ (14 : Reg) ≠ 15 ∧
    (let s := (State.reset.setV 0 0xFF).setV 1 1; 256 ≤ s.V[(0 : Reg)].toNat + s.V[(1 : Reg)].toNat) ∧
    (let s := (State.reset.setV 0 0xFE).setV 1 1; ¬256 ≤ s.V[(0 : Reg)].toNat + s.V[(1 : Reg)].toNat) ∧
    (let s := State.reset.setV 1 1; s.V[(0 : Reg)].toNat < s.V[(1 : Reg)].toNat) := by decide

/-- For IndexAccessIsCheckedFirst: the last byte in range and the first one outside, an instruction that accesses nothing, and an
index register past memory. -/
theorem witness_IndexAccessIsCheckedFirst :
    (at_ 0x202 0xFFE).fault = none ∧ (∃ k, k < indexBytes (.ldB 0) ∧ 4096 ≤ (at_ 0x202 0xFFE).I.toNat + k) ∧
    (∀ k, k < indexBytes (.ldB 0) → (at_ 0x202 0xFFD).I.toNat + k < 4096) ∧
    (∃ k, k < indexBytes (.storeRegs 0) ∧ 4096 ≤ (at_ 0x202 0x1000).I.toNat + k) ∧
    (∀ k, k < indexBytes (.drw 0 0 0) → (at_ 0x202 0xFFFF).I.toNat + k < 4096) :=
  ⟨rfl, ⟨2, by decide, by decide⟩, by decide, ⟨0, by decide, by decide⟩, by decide⟩
/-- For DecimalStore, BlockStore, BlockLoad and BlockLoadUndoesBlockStore: I at the ends of each clause. -/
theorem witness_BlockTransfers :
    ((at_ 0x202 0xFFD).I.toNat + 2 < 4096 ∧ 4096 ≤ (at_ 0x202 0xFFE).I.toNat + 2) ∧
    ((at_ 0x202 0xFF0).I.toNat + (15 : Reg).val < 4096 ∧ 4096 ≤ (at_ 0x202 0xFF1).I.toNat + (15 : Reg).val) ∧
    ((at_ 0x202 0xFFF).I.toNat + (0 : Reg).val < 4096 ∧ 4096 ≤ (at_ 0x202 0xFFFF).I.toNat + (0 : Reg).val) := by decide
/-- For StoredWordIsFetched (program P4): V0 and V1 hold `6142`, stored at the last two bytes of memory. -/
theorem witness_StoredWordIsFetched :
    let s := ((at_ 0x202 0xFFE).setV 0 0x61).setV 1 0x42
    s.fault = none ∧ s.I.toNat + (1 : Reg).val < 4096 ∧ (0 : Reg).val + 1 ≤ (1 : Reg).val ∧
    decode (joinBytes s.V[0] s.V[1]) = .ok (.ldImm 1 0x42) ∧ (0xFFE : Word).toNat = s.I.toNat + (0 : Reg).val := by decide

/-- For DrawInvertsTheSprite and DrawingTwiceRestoresTheDisplay: no rows at an index past memory, the last rows in range, and one row
too many. -/
theorem witness_DrawInvertsTheSprite :
    ((0 : Nibble) = 0 ∨ (at_ 0x202 0xFFFF).I.toNat + (0 : Nibble).toNat ≤ 4096) ∧
    ((2 : Nibble) = 0 ∨ (at_ 0x202 0xFFE).I.toNat + (2 : Nibble).toNat ≤ 4096) ∧
    ((3 : Nibble) ≠ 0 ∧ 4096 < (at_ 0x202 0xFFE).I.toNat + (3 : Nibble).toNat) := by decide
/-- For DrawInvertsTheSprite: a draw that turns a lit pixel unlit, and one that turns none (V-E6). -/
theorem witness_DrawCollision :
    let lit (b : Byte) := ((at_ 0x202 0x300).writeByte 0x300 b).setDisplay (State.reset.display.setPixel 0 0 true)
    (after State.reset (exec (.drw 0 1 1) (lit 0x80))).display.pixel 0 0 = false ∧ (lit 0x80).display.pixel 0 0 = true ∧
    (after State.reset (exec (.drw 0 1 1) (lit 0x40))).display.pixel 0 0 = true ∧
    (after State.reset (exec (.drw 0 1 1) (lit 0x40))).V[15] = 0 := by decide

/-- For KeySkips: the last value that names a key and the first that names none. -/
theorem witness_KeySkips :
    (State.reset.setV 0 15).V[(0 : Reg)].toNat = (15 : Reg).val ∧ 16 ≤ (State.reset.setV 0 16).V[(0 : Reg)].toNat := by decide
/-- For KeyWait: a least pressed key, the first and the last, and no key. -/
theorem witness_KeyWait :
    (let s := (State.reset.setKey 0 true).setKey 15 true
     s.keys[(0 : Reg)] = true ∧ ∀ j : Reg, j < 0 → s.keys[j] = false) ∧
    (let s := State.reset.setKey 15 true
     s.keys[(15 : Reg)] = true ∧ ∀ j : Reg, j < 15 → s.keys[j] = false) ∧
    (∀ k : Reg, State.reset.keys[k] = false) := by decide
/-- For TimersCountDown: a timer at 1, and one at 0. -/
theorem witness_TimersCountDown :
    (let s := State.reset.setDT 1; 0 < s.DT.toNat ∧ s.ST = 0) ∧ (let s := State.reset.setST 1; 0 < s.ST.toNat ∧ s.DT = 0) := by
  decide
/-- For LoadCopiesTheImage, BadHostCommandsChangeNothing and BootRunsTheImage: the longest image and one byte more, the least index
that is no key, and a first word that decodes. -/
theorem witness_LoadCopiesTheImage :
    (List.replicate 3584 (0x11 : Byte)).length ≤ 3584 ∧ 3584 < (List.replicate 3585 (0x11 : Byte)).length ∧ 16 ≤ 16 ∧
    (List.replicate 3582 (0x11 : Byte)).length + 2 ≤ 3584 ∧ decode (joinBytes 0x60 0x05) = .ok (.ldImm 0 5) := by
  refine ⟨List.length_replicate.le, ?_, by decide, ?_, by decide⟩
  · have := List.length_replicate (n := 3585) (a := (0x11 : Byte)); omega
  · have := List.length_replicate (n := 3582) (a := (0x11 : Byte)); omega
/-- For KeyPressSetsOneKey: another key, and the least index that is no key. -/
theorem witness_KeyPressSetsOneKey : 16 ≤ 16 ∧ (3 : Reg) ≠ 4 ∧ (State.reset.keyPress 3 true).1.keys[(4 : Reg)] = State.reset.keys[(4 : Reg)] := by
  decide
/-- For ZeroedMemoryRunsToTheEnd: the first and the last number of ticks. -/
theorem witness_ZeroedMemoryRunsToTheEnd : (0 : Nat) ≤ 1792 ∧ (1792 : Nat) ≤ 1792 := by decide
/-- For PlacedWordRunsNext: at the last pc a word is fetched from. -/
theorem witness_PlacedWordRunsNext : (at_ 0xFFE 0).fault = none ∧ (at_ 0xFFE 0).pc.toNat < 4095 := by decide

end Sys2Proof.Tests
end

section
/-! The bounds check of R54 (spec/20_memory.md): every instruction makes it first, over the bytes it
accesses through I. -/

namespace Sys2Proof.Machine

open Sys2Proof

/-! ### Updates that keep FAULT -/

@[simp] theorem State.skipIf_fault (s : State) (c : Bool) : (s.skipIf c).fault = s.fault := by
  rw [State.skipIf_eq, State.setPc_fault]

@[simp] theorem State.storeBytes_fault (s : State) (a : Nat) (bs : List Byte) :
    (s.storeBytes a bs).fault = s.fault := by
  rw [State.storeBytes_eq, State.setMem_fault]

@[simp] theorem State.loadList_fault (s : State) (ks : List Reg) : (s.loadList ks).fault = s.fault := by
  rw [State.loadList_eq]

theorem State.push_fault {s t : State} {w : Word} (h : s.push w = some t) : t.fault = s.fault := by
  obtain ⟨_, rfl⟩ := State.push_eq_some h
  rfl

theorem State.pop_fault {s t : State} {w : Word} (h : s.pop = some (w, t)) : t.fault = s.fault := by
  obtain ⟨_, _, rfl⟩ := State.pop_eq_some h
  rfl

/-! ### The check -/

theorem checked_of_accessible {op : Word} {n : Nat} {s t : State} (h : s.accessible n = true) :
    checked op n s t = .next t := by
  rw [checked, if_pos h]

theorem checked_of_not_accessible {op : Word} {n : Nat} {s t : State} (h : ¬ s.accessible n = true) :
    checked op n s t =
      .next (s.takeFault .memoryOutOfRange (some op) (s.pc - 2) (some s.lowestOutside)) := by
  rw [checked, if_neg h, raise]

@[simp] theorem checked_zero (op : Word) (s t : State) : checked op 0 s t = .next t :=
  checked_of_accessible ((s.accessible_iff 0).2 (.inl rfl))

theorem State.accessible_iff_forall (s : State) (n : Nat) :
    s.accessible n = true ↔ ∀ k, k < n → s.I.toNat + k < 4096 := by
  rw [State.accessible_iff]
  constructor
  · intro h k hk
    omega
  · intro h
    cases n with
    | zero => exact .inl rfl
    | succ m => have hlast := h m m.lt_succ_self; omega

/-- When an access goes out of range, the address reported is one of those accessed. -/
theorem State.lowestOutside_accessed {s : State} {n k : Nat} (hk : k < n) (hout : 4096 ≤ s.I.toNat + k) :
    ∃ j, j < n ∧ s.lowestOutside.toNat = s.I.toNat + j :=
  ⟨max s.I.toNat 4096 - s.I.toNat, by omega, by rw [State.lowestOutside_toNat]; omega⟩

/-- No address from I on that is out of range lies below the one reported. -/
theorem State.lowestOutside_le {s : State} {k : Nat} (hout : 4096 ≤ s.I.toNat + k) :
    s.lowestOutside.toNat ≤ s.I.toNat + k := by
  rw [State.lowestOutside_toNat]
  omega

/-! ### Every instruction checks first -/

/-- Every instruction is the check over the bytes it accesses through I, none for most, and then either keeps FAULT as
it is or takes the one other fault R230 gives it. -/
theorem exec_eq_checked (i : Instr) (s : State) :
    ∃ t, exec i s = checked (encode i) (indexBytes i) s t ∧
      (t.fault = s.fault ∨ ∃ kind, faultKind i = some kind ∧ kind ≠ .memoryOutOfRange ∧
        t = s.takeFault kind (some (encode i)) (s.pc - 2) none) := by
  cases i with
  | drw x y n => exact ⟨_, rfl, .inl rfl⟩
  | ldB x => exact ⟨_, rfl, .inl (s.storeBytes_fault ..)⟩
  | storeRegs x => exact ⟨_, rfl, .inl (s.storeBytes_fault ..)⟩
  | loadRegs x => exact ⟨_, rfl, .inl (s.loadList_fault _)⟩
  | call nnn =>
    simp only [exec, execCall, indexBytes, checked_zero]
    cases hpush : s.push s.pc with
    | some t => exact ⟨_, rfl, .inl ((t.setPc_fault _).trans (State.push_fault hpush))⟩
    | none => exact ⟨_, rfl, .inr ⟨_, rfl, by decide, rfl⟩⟩
  | ret =>
    simp only [exec, execRet, indexBytes, checked_zero]
    cases hpop : s.pop with
    | some p => exact ⟨_, rfl, .inl ((p.2.setPc_fault _).trans (State.pop_fault hpop))⟩
    | none => exact ⟨_, rfl, .inr ⟨_, rfl, by decide, rfl⟩⟩
  | skp x | sknp x =>
    simp only [exec, execSkp, execSknp, indexBytes, checked_zero]
    cases keyOf s.V[x] with
    | some k => exact ⟨_, rfl, .inl (s.skipIf_fault _)⟩
    | none => exact ⟨_, rfl, .inr ⟨_, rfl, by decide, rfl⟩⟩
  | ldVxK x =>
    simp only [exec, execLdVxK, indexBytes, checked_zero]
    cases lowestKey s.keys with
    | some k => exact ⟨_, rfl, .inl rfl⟩
    | none => exact ⟨_, rfl, .inl rfl⟩
  | seImm x nn | sneImm x nn | seReg x y | sneReg x y =>
    exact ⟨_, (checked_zero ..).symm, .inl (s.skipIf_fault _)⟩
  | nop | cls | jp nnn | jpV0 nnn | ldI nnn | addI x | ldF x | ldVxDT x | ldDTVx x | ldSTVx x | rnd x nn
  | ldImm x nn | addImm x nn | ldReg x y | orReg x y | andReg x y | xorReg x y
  | addReg x y | subReg x y | shr x y | subnReg x y | shl x y =>
    exact ⟨_, (checked_zero ..).symm, .inl rfl⟩

/-- Settles O34: every instruction is the check of R54 over its own bytes (`exec_eq_checked`), and the check's two
outcomes are the two clauses. -/
theorem indexAccessIsCheckedFirst : Obligations.IndexAccessIsCheckedFirst := by
  intro s i hs
  obtain ⟨t, hexec, hfault⟩ := exec_eq_checked i s
  constructor
  · rintro ⟨k, hk, hout⟩
    have hbad : ¬ s.accessible (indexBytes i) = true := fun h =>
      absurd ((s.accessible_iff_forall _).1 h k hk) (by omega)
    exact ⟨s.lowestOutside, hexec.trans (checked_of_not_accessible hbad), s.lowestOutside_toNat,
      State.lowestOutside_accessed hk hout, fun j _ hj => State.lowestOutside_le hj⟩
  · intro hin
    refine ⟨t, hexec.trans (checked_of_accessible ((s.accessible_iff_forall _).2 hin)), fun r hr => ?_⟩
    rcases hfault with hkeep | ⟨kind, -, hkind, rfl⟩
    · rw [hkeep, hs] at hr
      cases hr
    · cases hr
      exact hkind

end Sys2Proof.Machine
end

section
/-! The unrecognised words (spec/30_encoding.md R75): the table's rows, the decoder and the list of R75, each read off
the same fields of the word. -/

namespace Sys2Proof

/-! ### The fields as numbers -/

theorem n1_toNat (w : Word) : (n1 w).toNat = w.toNat / 4096 := by
  have hw := w.isLt
  simp only [n1, BitVec.extractLsb'_toNat, Nat.shiftRight_eq_div_pow]
  omega

theorem n4_toNat (w : Word) : (n4 w).toNat = w.toNat % 16 := by
  rw [n4, BitVec.extractLsb'_toNat, Nat.shiftRight_zero]

theorem lowByte_toNat (w : Word) : (lowByte w).toNat = w.toNat % 256 := by
  rw [lowByte, BitVec.extractLsb'_toNat, Nat.shiftRight_zero]

/-- The list of R75 in terms of the fields of R71. -/
theorem listedUnrecognised_iff (w : Word) :
    ListedUnrecognised w ↔
      (n1 w = 0 ∧ w ∉ [0x0000, 0x00E0, 0x00EE]) ∨
      ((n1 w = 5 ∨ n1 w = 9) ∧ n4 w ≠ 0) ∨
      (n1 w = 8 ∧ n4 w ∉ [0, 1, 2, 3, 4, 5, 6, 7, 0xE]) ∨
      (n1 w = 0xE ∧ lowByte w ∉ [0x9E, 0xA1]) ∨
      (n1 w = 0xF ∧ lowByte w ∉ [0x07, 0x0A, 0x15, 0x18, 0x1E, 0x29, 0x33, 0x55, 0x65]) := by
  have h8 : (n4 w).toNat ∈ [8, 9, 0xA, 0xB, 0xC, 0xD, 0xF] ↔ n4 w ∉ [0, 1, 2, 3, 4, 5, 6, 7, 0xE] := by
    generalize n4 w = k
    revert k
    decide
  simp only [ListedUnrecognised, ← n1_toNat, ← n4_toNat, ← lowByte_toNat, h8]
  simp [BitVec.toNat_eq]

/-! ### Words under a mask -/

theorem wordNNN_and_F000 (o : Nibble) (nnn : Imm12) : wordNNN o nnn &&& 0xF000 = wordNNN o 0 := by
  have h : wordNNN o nnn &&& wordNNN (.allOnes 4) 0 = wordNNN (o &&& .allOnes 4) (nnn &&& 0#12) := BitVec.and_append
  rwa [BitVec.and_allOnes, BitVec.and_zero] at h

theorem wordXNN_and_F0FF (o : Nibble) (x : Reg) (nn : Byte) : wordXNN o x nn &&& 0xF0FF = wordXNN o 0 nn := by
  have h : wordXNN o x nn &&& wordXNN (.allOnes 4) 0 (.allOnes 8) = _ ++ (_ ++ _) :=
    BitVec.and_append.trans (congrArg _ BitVec.and_append)
  rwa [BitVec.and_allOnes, BitVec.and_allOnes, show regNibble x &&& regNibble 0 = regNibble 0 from BitVec.and_zero] at h

theorem wordXYN_and_F00F (o : Nibble) (x y : Reg) (n : Nibble) : wordXYN o x y n &&& 0xF00F = wordXYN o 0 0 n := by
  have h : wordXYN o x y n &&& wordXYN (.allOnes 4) 0 0 (.allOnes 4) = _ ++ (_ ++ (_ ++ _)) :=
    BitVec.and_append.trans (congrArg _ (BitVec.and_append.trans (congrArg _ BitVec.and_append)))
  rwa [BitVec.and_allOnes, BitVec.and_allOnes, show regNibble x &&& regNibble 0 = regNibble 0 from BitVec.and_zero,
    show regNibble y &&& regNibble 0 = regNibble 0 from BitVec.and_zero] at h

/-! ### The rows of the table, by format -/

/-- A row of format Z: the whole word is fixed. -/
def OpRow.z (p : Word) : OpRow := ⟨0xFFFF, p⟩

/-- A row the first nibble alone selects. -/
def OpRow.nibble (o : Nibble) : OpRow := ⟨0xF000, wordNNN o 0⟩

/-- A row of format XY. -/
def OpRow.xy (o k : Nibble) : OpRow := ⟨0xF00F, wordXYN o 0 0 k⟩

/-- A row of format X. -/
def OpRow.x (o : Nibble) (b : Byte) : OpRow := ⟨0xF0FF, wordXNN o 0 b⟩

theorem OpRow.holds_iff (r : OpRow) (w : Word) : r.holds w = true ↔ w &&& r.mask = r.pattern := beq_iff_eq

@[simp] theorem OpRow.z_holds (p w : Word) : (OpRow.z p).holds w = true ↔ w = p := by
  have hmask : w &&& 0xFFFF = w := BitVec.and_allOnes
  rw [OpRow.holds_iff, OpRow.z, hmask]

@[simp] theorem OpRow.nibble_holds (o : Nibble) (w : Word) : (OpRow.nibble o).holds w = true ↔ n1 w = o := by
  have hmask := wordNNN_and_F000 (n1 w) (fieldNNN w)
  rw [wordNNN_fields] at hmask
  rw [OpRow.holds_iff, OpRow.nibble, hmask]
  exact ⟨fun h => by simpa using congrArg n1 h, fun h => by rw [h]⟩

@[simp] theorem OpRow.xy_holds (o k : Nibble) (w : Word) :
    (OpRow.xy o k).holds w = true ↔ n1 w = o ∧ n4 w = k := by
  have hmask := wordXYN_and_F00F (n1 w) (fieldX w) (fieldY w) (n4 w)
  rw [wordXYN_fields] at hmask
  rw [OpRow.holds_iff, OpRow.xy, hmask]
  exact ⟨fun h => ⟨by simpa using congrArg n1 h, by simpa using congrArg n4 h⟩, fun ⟨ho, hk⟩ => by rw [ho, hk]⟩

@[simp] theorem OpRow.x_holds (o : Nibble) (b : Byte) (w : Word) :
    (OpRow.x o b).holds w = true ↔ n1 w = o ∧ lowByte w = b := by
  have hmask := wordXNN_and_F0FF (n1 w) (fieldX w) (lowByte w)
  rw [wordXNN_fields] at hmask
  rw [OpRow.holds_iff, OpRow.x, hmask]
  exact ⟨fun h => ⟨by simpa using congrArg n1 h, by simpa using congrArg lowByte h⟩, fun ⟨ho, hb⟩ => by rw [ho, hb]⟩

theorem rowsZ_eq : rowsZ = [.z 0x0000, .z 0x00E0, .z 0x00EE] := rfl

theorem rowsNibble_eq :
    rowsNibble = [.nibble 1, .nibble 2, .nibble 3, .nibble 4, .nibble 6, .nibble 7, .nibble 0xA, .nibble 0xB,
      .nibble 0xC, .nibble 0xD] := rfl

theorem rowsXY_eq :
    rowsXY = [.xy 5 0, .xy 8 0, .xy 8 1, .xy 8 2, .xy 8 3, .xy 8 4, .xy 8 5, .xy 8 6, .xy 8 7,
      .xy 8 0xE, .xy 9 0] := rfl

theorem rowsX_eq :
    rowsX = [.x 0xE 0x9E, .x 0xE 0xA1, .x 0xF 0x07, .x 0xF 0x0A, .x 0xF 0x15, .x 0xF 0x18, .x 0xF 0x1E, .x 0xF 0x29,
      .x 0xF 0x33, .x 0xF 0x55, .x 0xF 0x65] := rfl

/-- The table in terms of the fields of R71. -/
theorem wellFormedWord_iff (w : Word) :
    wellFormedWord w = true ↔
      w ∈ [0x0000, 0x00E0, 0x00EE] ∨
      n1 w ∈ [1, 2, 3, 4, 6, 7, 0xA, 0xB, 0xC, 0xD] ∨
      (n1 w = 5 ∧ n4 w = 0) ∨
      (n1 w = 8 ∧ n4 w ∈ [0, 1, 2, 3, 4, 5, 6, 7, 0xE]) ∨
      (n1 w = 9 ∧ n4 w = 0) ∨
      (n1 w = 0xE ∧ lowByte w ∈ [0x9E, 0xA1]) ∨
      (n1 w = 0xF ∧ lowByte w ∈ [0x07, 0x0A, 0x15, 0x18, 0x1E, 0x29, 0x33, 0x55, 0x65]) := by
  simp only [wellFormedWord, opRows, rowsZ_eq, rowsNibble_eq, rowsXY_eq, rowsX_eq, List.any_append, List.any_cons,
    List.any_nil, Bool.or_false, Bool.or_eq_true, OpRow.z_holds, OpRow.nibble_holds, OpRow.xy_holds, OpRow.x_holds,
    List.mem_cons, List.not_mem_nil, or_false, and_or_left, or_assoc]

/-! ### The decoder -/

theorem decodeZ_ok_iff (w : Word) : (∃ i, decodeZ w = .ok i) ↔ w ∈ [0x0000, 0x00E0, 0x00EE] := by
  unfold decodeZ
  split <;> simp_all

theorem decode8_ok_iff (w : Word) : (∃ i, decode8 w = .ok i) ↔ n4 w ∈ [0, 1, 2, 3, 4, 5, 6, 7, 0xE] := by
  unfold decode8
  split <;> simp_all

theorem decodeE_ok_iff (w : Word) : (∃ i, decodeE w = .ok i) ↔ lowByte w ∈ [0x9E, 0xA1] := by
  unfold decodeE
  split <;> simp_all

theorem decodeF_ok_iff (w : Word) :
    (∃ i, decodeF w = .ok i) ↔ lowByte w ∈ [0x07, 0x0A, 0x15, 0x18, 0x1E, 0x29, 0x33, 0x55, 0x65] := by
  unfold decodeF
  split <;> simp_all

theorem ite_ok_iff {c : Prop} [Decidable c] (i : Instr) (e : DecodeError) :
    (∃ j, (if c then .ok i else .error e) = Except.ok j) ↔ c := by
  by_cases h : c <;> simp [h]

theorem n1_eq_zero_of_fixed {w : Word} (h : w ∈ [0x0000, 0x00E0, 0x00EE]) : n1 w = 0 := by
  simp only [List.mem_cons, List.not_mem_nil, or_false] at h
  rcases h with rfl | rfl | rfl <;> rfl

/-- The decoder accepts exactly the words of the table. -/
theorem decode_ok_iff (w : Word) : (∃ i, decode w = .ok i) ↔ wellFormedWord w = true := by
  rw [wellFormedWord_iff]
  have hZ := @n1_eq_zero_of_fixed w
  unfold decode
  split <;> simp_all [decodeZ_ok_iff, decode8_ok_iff, decodeE_ok_iff, decodeF_ok_iff, ite_ok_iff]

/-! ### The list of R75 -/

/-- The words outside the table are those of the list: one case per first nibble. -/
theorem wellFormedWord_eq_false_iff (w : Word) : wellFormedWord w = false ↔ ListedUnrecognised w := by
  rw [← Bool.not_eq_true, wellFormedWord_iff, listedUnrecognised_iff]
  have hZ := @n1_eq_zero_of_fixed w
  obtain ⟨o, ho⟩ : ∃ o : Fin 16, n1 w = BitVec.ofFin o := ⟨_, rfl⟩
  rw [ho] at hZ ⊢
  fin_cases o <;> simp_all

theorem not_decode_ok_iff (w : Word) : (¬∃ i, decode w = .ok i) ↔ ListedUnrecognised w := by
  rw [decode_ok_iff, Bool.not_eq_true, wellFormedWord_eq_false_iff]

end Sys2Proof

namespace Sys2Proof.Machine

open Sys2Proof

/-- A tick that fetches an unrecognised word takes `UnimplementedOpcode` for it, at the word's own address (R95). -/
theorem step_of_not_decode_ok {s : State} (hfault : s.fault = none) (hpc : s.pc.toNat < 4095)
    (hbad : ¬∃ i, decode s.fetchWord = .ok i) :
    step s = .next (s.takeFault .unimplementedOpcode (some s.fetchWord) s.pc none) := by
  rcases step_cases s with ⟨hhalted, -⟩ | ⟨-, hout, -⟩ | ⟨-, -, i, hi, -⟩ | ⟨-, -, _, -, hstep⟩
  · exact absurd hfault hhalted
  · omega
  · exact absurd ⟨i, hi⟩ hbad
  · exact hstep

/-- Settles O4: the table, the decoder and the list of R75 agree on every word, and the tick's one branch for a word
the decoder rejects is the fault. -/
theorem unrecognisedWordsFault : Obligations.UnrecognisedWordsFault := by
  refine ⟨wellFormedWord_eq_false_iff, not_decode_ok_iff, ?_⟩
  rintro s w hfault hpc rfl hlisted
  exact step_of_not_decode_ok hfault hpc ((not_decode_ok_iff s.fetchWord).2 hlisted)

end Sys2Proof.Machine
end

section
/-! A word that decodes is the word of its instruction (spec/30_encoding.md R71, R73): an instruction rule names its
own word in a fault record, so this ties the record to the word that was fetched (R222). -/

namespace Sys2Proof

/-! ### A word from the fields a decoder arm has read -/

theorem wordNNN_of_n1 {w : Word} {o : Nibble} (ho : n1 w = o) : wordNNN o (fieldNNN w) = w :=
  ho ▸ wordNNN_fields w

theorem wordXNN_of_n1 {w : Word} {o : Nibble} (ho : n1 w = o) : wordXNN o (fieldX w) (lowByte w) = w :=
  ho ▸ wordXNN_fields w

theorem wordXNN_of_n1_lowByte {w : Word} {o : Nibble} {b : Byte} (ho : n1 w = o) (hb : lowByte w = b) :
    wordXNN o (fieldX w) b = w :=
  hb ▸ wordXNN_of_n1 ho

theorem wordXYN_of_n1 {w : Word} {o : Nibble} (ho : n1 w = o) : wordXYN o (fieldX w) (fieldY w) (n4 w) = w :=
  ho ▸ wordXYN_fields w

theorem wordXYN_of_n1_n4 {w : Word} {o k : Nibble} (ho : n1 w = o) (hk : n4 w = k) :
    wordXYN o (fieldX w) (fieldY w) k = w :=
  hk ▸ wordXYN_of_n1 ho

/-! ### One lemma per part of the decoder -/

theorem encode_of_decodeZ {w : Word} {i : Instr} (h : decodeZ w = .ok i) : encode i = w := by
  unfold decodeZ at h
  split at h <;> cases h <;> rfl

theorem encode_of_decode8 {w : Word} {i : Instr} (ho : n1 w = 8) (h : decode8 w = .ok i) : encode i = w := by
  unfold decode8 at h
  split at h <;> cases h <;> exact wordXYN_of_n1_n4 ho ‹_›

theorem encode_of_decodeE {w : Word} {i : Instr} (ho : n1 w = 0xE) (h : decodeE w = .ok i) : encode i = w := by
  unfold decodeE at h
  split at h <;> cases h <;> exact wordXNN_of_n1_lowByte ho ‹_›

theorem encode_of_decodeF {w : Word} {i : Instr} (ho : n1 w = 0xF) (h : decodeF w = .ok i) : encode i = w := by
  unfold decodeF at h
  split at h <;> cases h <;> exact wordXNN_of_n1_lowByte ho ‹_›

/-- Each arm of the decoder keeps every bit: the nibbles and the byte it has matched, and the fields it reads. -/
theorem encode_of_decode {w : Word} {i : Instr} (h : decode w = .ok i) : encode i = w := by
  unfold decode at h
  -- `h_k` is the arm of first nibble `k - 1`; `h_17` is the arm no nibble reaches.
  split at h
  case h_1 => exact encode_of_decodeZ h
  case h_6 ho | h_10 ho =>
    split at h <;> cases h
    exact wordXYN_of_n1_n4 ho ‹_›
  case h_9 ho => exact encode_of_decode8 ho h
  case h_15 ho => exact encode_of_decodeE ho h
  case h_16 ho => exact encode_of_decodeF ho h
  case h_2 ho | h_3 ho | h_11 ho | h_12 ho => cases h; exact wordNNN_of_n1 ho
  case h_4 ho | h_5 ho | h_7 ho | h_8 ho | h_13 ho => cases h; exact wordXNN_of_n1 ho
  case h_14 ho => cases h; exact wordXYN_of_n1 ho
  case h_17 => cases h

end Sys2Proof
end

section
/-! The tick (spec/40_execution_cycle.md): what it does when it is halted, when nothing can be fetched and when a word
decodes, and the record of the fault it raises. -/

namespace Sys2Proof.Machine

open Sys2Proof

/-! ### The tick, branch by branch -/

theorem step_of_halted {s : State} {r : FaultRecord} (hfault : s.fault = some r) : step s = .next s := by
  rcases step_cases s with ⟨-, hstep⟩ | ⟨hnone, -⟩ | ⟨hnone, -⟩ | ⟨hnone, -⟩
  · exact hstep
  all_goals
    rw [hfault] at hnone
    cases hnone

theorem step_of_not_fetchable {s : State} (hfault : s.fault = none) (hpc : 4095 ≤ s.pc.toNat) :
    step s = .next s.fetchFault := by
  rcases step_cases s with ⟨hhalted, -⟩ | ⟨-, -, hstep⟩ | ⟨-, hlt, -⟩ | ⟨-, hlt, -⟩
  · exact absurd hfault hhalted
  · exact hstep
  all_goals omega

theorem step_of_decode {s : State} {i : Instr} (hfault : s.fault = none) (hpc : s.pc.toNat < 4095)
    (hdecode : decode s.fetchWord = .ok i) : step s = exec i s.afterFetch := by
  rcases step_cases s with ⟨hhalted, -⟩ | ⟨-, hout, -⟩ | ⟨-, -, j, hj, hstep⟩ | ⟨-, -, _, herror, -⟩
  · exact absurd hfault hhalted
  · omega
  · cases hdecode.symm.trans hj
    exact hstep
  · cases hdecode.symm.trans herror

theorem State.afterFetch_pc_toNat {s : State} (hpc : s.pc.toNat < 4095) :
    s.afterFetch.pc.toNat = s.pc.toNat + 2 := by
  rw [State.afterFetch_eq, State.setPc_pc]
  bv_omega

/-- Settles O7: the tick's branch for a word that decodes (`step_of_decode`). -/
theorem tickRunsTheDecodedInstruction : Obligations.TickRunsTheDecodedInstruction :=
  fun _ _ hfault hpc hdecode => ⟨step_of_decode hfault hpc hdecode, State.afterFetch_pc_toNat hpc⟩

/-- Settles O8: the tick's branch for the fetch fault (`step_of_not_fetchable`), which writes back the pc it has. -/
theorem fetchBeyondMemoryFaults : Obligations.FetchBeyondMemoryFaults :=
  fun _ hfault hpc => step_of_not_fetchable hfault hpc

/-! ### Waiting for a key -/

theorem State.rewind_afterFetch (s : State) : s.afterFetch.rewind = s := by
  rw [State.rewind_eq, State.afterFetch_eq, State.setPc_pc, word_add_two_sub_two]
  rfl

theorem exec_ldVxK_of_no_key {s : State} (x : Reg) (hkeys : ∀ k : Reg, s.keys[k] = false) :
    exec (.ldVxK x) s = .next s.rewind := by
  simp only [exec, execLdVxK, lowestKey_eq_none.2 hkeys]

/-- Settles O12: `Fx0A` with no key takes back the fetch's advance of pc, and nothing else has changed. -/
theorem waitingForAKeyLeavesTheStateAlone : Obligations.WaitingForAKeyLeavesTheStateAlone := by
  intro s x hfault hpc hdecode hkeys
  have hwait : exec (.ldVxK x) s.afterFetch = .next s.afterFetch.rewind := exec_ldVxK_of_no_key x hkeys
  rw [step_of_decode hfault hpc hdecode, hwait, State.rewind_afterFetch]

/-! ### The fault a tick raises -/

/-- The record R222 gives a fault of this kind raised by a tick from `s`. -/
def State.recordOf (s : State) (kind : FaultKind) : FaultRecord where
  kind := kind
  opcode := if kind = .fetchOutOfRange then none else some s.fetchWord
  address := s.pc
  dataAddress := if kind = .memoryOutOfRange then some s.lowestOutside else none

/-- A fault taken after fetch puts pc back to the instruction, so only FAULT differs from the state before the tick. -/
theorem State.takeFault_afterFetch (s : State) (kind : FaultKind) (op d : Option Word) :
    s.afterFetch.takeFault kind op (s.afterFetch.pc - 2) d = { s with fault := some ⟨kind, op, s.pc, d⟩ } := by
  rw [State.afterFetch_eq, State.setPc_pc, word_add_two_sub_two]
  rfl

/-- An instruction that accesses memory through I is one whose fault kind is `MemoryOutOfRange` (R230). -/
theorem faultKind_of_indexBytes {i : Instr} (h : indexBytes i ≠ 0) : faultKind i = some .memoryOutOfRange := by
  cases i with
  | drw x y n | ldB x | storeRegs x | loadRegs x => rfl
  | _ => exact absurd rfl h

/-- `FetchOutOfRange` is the tick's own: no instruction has it as its fault kind (R230). -/
theorem faultKind_ne_fetchOutOfRange (i : Instr) : faultKind i ≠ some .fetchOutOfRange := by
  cases i <;> exact nofun

/-- When the instruction fetched raises a fault, it is of the instruction's one kind, its record is that of R222, and
the state is otherwise the one before the tick (R96). -/
theorem exec_afterFetch_fault {s t : State} {i : Instr} {r : FaultRecord} (hfault : s.fault = none)
    (hdecode : decode s.fetchWord = .ok i) (hexec : exec i s.afterFetch = .next t) (hr : t.fault = some r) :
    ∃ kind, faultKind i = some kind ∧ t = { s with fault := some (s.recordOf kind) } := by
  obtain ⟨u, hchecked, hu⟩ := exec_eq_checked i s.afterFetch
  rw [encode_of_decode hdecode] at hchecked hu
  rcases checked_cases s.fetchWord (indexBytes i) s.afterFetch u with ⟨-, hnext⟩ | ⟨hout, hnext⟩
  · -- In range: FAULT is kept, and is none, or the instruction's other fault is taken.
    cases hexec.symm.trans (hchecked.trans hnext)
    rcases hu with hkeep | ⟨kind, hkind, hmem, rfl⟩
    · rw [hr] at hkeep
      cases hkeep.trans hfault
    · have hfetch : kind ≠ .fetchOutOfRange := fun h => faultKind_ne_fetchOutOfRange i (h ▸ hkind)
      refine ⟨kind, hkind, ?_⟩
      rw [State.takeFault_afterFetch, State.recordOf, if_neg hfetch, if_neg hmem]
  · -- Out of range: `MemoryOutOfRange`, with the address found on the unchanged I.
    cases hexec.symm.trans (hchecked.trans hnext)
    have hbytes : indexBytes i ≠ 0 := fun h => by
      rw [(s.afterFetch.accessible_iff _).2 (.inl h)] at hout
      cases hout
    exact ⟨.memoryOutOfRange, faultKind_of_indexBytes hbytes, State.takeFault_afterFetch ..⟩

/-- A tick that raises a fault changes only FAULT, which holds the record of R222; and which fault it is follows the
order of the checks (R99): the fetch, the word, the instruction's own rule. -/
theorem step_fault_cases {s t : State} {r : FaultRecord} (hfault : s.fault = none) (hstep : step s = .next t)
    (hr : t.fault = some r) :
    ∃ kind, t = { s with fault := some (s.recordOf kind) } ∧
      ((4095 ≤ s.pc.toNat ∧ kind = .fetchOutOfRange) ∨
       (s.pc.toNat < 4095 ∧ (∃ e, decode s.fetchWord = .error e) ∧ kind = .unimplementedOpcode) ∨
       (s.pc.toNat < 4095 ∧ ∃ i, decode s.fetchWord = .ok i ∧ faultKind i = some kind)) := by
  rcases step_cases s with ⟨hhalted, -⟩ | ⟨-, hout, heq⟩ | ⟨-, hpc, i, hdecode, heq⟩ | ⟨-, hpc, e, herror, heq⟩
  · exact absurd hfault hhalted
  · cases hstep.symm.trans heq
    exact ⟨_, rfl, .inl ⟨hout, rfl⟩⟩
  · obtain ⟨kind, hkind, ht⟩ := exec_afterFetch_fault hfault hdecode (heq.symm.trans hstep) hr
    exact ⟨kind, ht, .inr (.inr ⟨hpc, i, hdecode, hkind⟩)⟩
  · cases hstep.symm.trans heq
    exact ⟨_, rfl, .inr (.inl ⟨hpc, ⟨e, herror⟩, rfl⟩)⟩

/-- Settles O10: the record of a faulting tick is that of R222 (`step_fault_cases`), read off field by field. -/
theorem faultsArePrecise : Obligations.FaultsArePrecise := by
  intro s t r hfault hstep hr
  obtain ⟨kind, rfl, -⟩ := step_fault_cases hfault hstep hr
  cases hr
  exact ⟨rfl, rfl, fun h => if_pos h, fun h => if_neg h,
    fun h => ⟨s.lowestOutside, if_pos h, s.lowestOutside_toNat⟩, fun h => if_neg h⟩

/-! ### Halted until reset -/

@[simp] theorem State.load_fault (s : State) (rom : List Byte) : (s.load rom).1.fault = s.fault := by
  unfold State.load
  split
  · exact s.storeBytes_fault ..
  · rfl

@[simp] theorem State.keyPress_fault (s : State) (index : Nat) (pressed : Bool) :
    (s.keyPress index pressed).1.fault = s.fault := by
  unfold State.keyPress
  split
  · exact s.setKey_fault ..
  · rfl

theorem State.tickReport_of_fault {s : State} {r : FaultRecord} (h : s.fault = some r) :
    s.tickReport = .faulted r := by
  rw [State.tickReport, h]

theorem perform_tick_of_step {s t : State} (h : step s = .next t) :
    perform .tick s = .next (t, t.tickReport) := by
  rw [perform, h]

/-- Every command of a halted core but `reset` and `new` answers, and keeps FAULT. -/
theorem perform_halted_keeps_fault {s : State} {r : FaultRecord} {c : Command} (hfault : s.fault = some r)
    (hreset : c ≠ .reset) (hnew : c ≠ .new) : ∃ p, perform c s = .next p ∧ p.1.fault = s.fault := by
  cases c with
  | new => exact absurd rfl hnew
  | reset => exact absurd rfl hreset
  | load rom => exact ⟨_, rfl, s.load_fault rom⟩
  | keyPress index pressed => exact ⟨_, rfl, s.keyPress_fault index pressed⟩
  | tick => exact ⟨_, perform_tick_of_step (step_of_halted hfault), rfl⟩
  | tickTimers | getDisplay | readST | readFault => exact ⟨_, rfl, rfl⟩

/-- Settles O9: the tick's first check (`step_of_halted`), and one case per command for what it leaves in FAULT. -/
theorem haltedUntilReset : Obligations.HaltedUntilReset := by
  intro s r hfault
  have htick := step_of_halted hfault
  refine ⟨htick, ?_, ?_, ?_⟩
  · rw [perform_tick_of_step htick, State.tickReport_of_fault hfault]
  · intro c t a hreset hnew hperform
    obtain ⟨p, hp, hkeep⟩ := perform_halted_keeps_fault hfault hreset hnew
    cases hp.symm.trans hperform
    exact hkeep.trans hfault
  · rintro c (rfl | rfl)
    · exact ⟨s.resetCore, rfl, rfl⟩
    · exact ⟨s.resetCore, rfl, rfl⟩

end Sys2Proof.Machine
end

section
/-! Control flow (spec/41_flow.md): the jumps, the skips on registers, the call and the return, each with its frame. -/

namespace Sys2Proof.Machine

open Sys2Proof

/-! ### Frames of the updates control flow is made of -/

theorem Component.same_refl (c : Component) (s : State) : c.same s s := by
  cases c with
  | V | stack | mem | keys => exact fun _ => rfl
  | display => exact fun _ _ => rfl
  | pc | I | sp | DT | ST | fault | font | draws => rfl

theorem OnlyChanges.refl (cs : List Component) (s : State) : OnlyChanges cs s s := fun c _ => c.same_refl s

/-- A jump adds pc to what has changed. -/
theorem OnlyChanges.setPc {cs : List Component} {s t : State} (h : OnlyChanges cs s t) (w : Word) :
    OnlyChanges (.pc :: cs) s (t.setPc w) := by
  intro c hc
  have hsame : c.same s t := h c (fun hmem => hc (List.mem_cons_of_mem _ hmem))
  cases c with
  | pc => exact absurd List.mem_cons_self hc
  | _ => exact hsame

theorem State.onlyChanges_setPc (s : State) (w : Word) : OnlyChanges [.pc] s (s.setPc w) :=
  (OnlyChanges.refl [] s).setPc w

theorem State.onlyChanges_skipIf (s : State) (c : Bool) : OnlyChanges [.pc] s (s.skipIf c) := by
  rw [State.skipIf_eq]
  exact s.onlyChanges_setPc _

theorem State.push_onlyChanges {s t : State} {w : Word} (h : s.push w = some t) :
    OnlyChanges [.stack, .sp] s t := by
  obtain ⟨_, rfl⟩ := State.push_eq_some h
  intro c hc
  have hsame := c.same_refl s
  cases c with
  | stack | sp => exact absurd (by decide) hc
  | _ => exact hsame

theorem State.pop_onlyChanges {s t : State} {w : Word} (h : s.pop = some (w, t)) : OnlyChanges [.sp] s t := by
  obtain ⟨_, _, rfl⟩ := State.pop_eq_some h
  intro c hc
  have hsame := c.same_refl s
  cases c with
  | sp => exact absurd List.mem_cons_self hc
  | _ => exact hsame

/-! ### Jumps -/

@[simp] theorem zext12_toNat (nnn : Imm12) : (zext12 nnn).toNat = nnn.toNat :=
  BitVec.toNat_setWidth_of_le (by decide)

@[simp] theorem zext8_toNat (b : Byte) : (zext8 b).toNat = b.toNat :=
  BitVec.toNat_setWidth_of_le (by decide)

/-- The sum of R120 is at most 0x10FE, so it does not wrap. -/
theorem zext8_add_zext12_toNat (b : Byte) (nnn : Imm12) : (zext8 b + zext12 nnn).toNat = b.toNat + nnn.toNat := by
  have hb := b.isLt
  have hnnn := nnn.isLt
  rw [BitVec.toNat_add, zext8_toNat, zext12_toNat, Nat.mod_eq_of_lt (by omega)]

/-- Settles O20: NOP answers its own state, and a jump is one write of pc. -/
theorem nopAndJumps : Obligations.NopAndJumps :=
  ⟨fun _ => rfl,
   fun s nnn => ⟨_, rfl, zext12_toNat nnn, s.onlyChanges_setPc _⟩,
   fun s nnn => ⟨_, rfl, zext8_add_zext12_toNat s.V[(0 : Reg)] nnn, s.onlyChanges_setPc _⟩⟩

/-! ### Skips -/

theorem State.skipIf_beq_pc (s : State) (a b : Byte) :
    (s.skipIf (a == b)).pc = if a = b then s.pc + 2 else s.pc := by
  simp only [State.skipIf_eq, State.setPc_pc, beq_iff_eq]

theorem State.skipIf_bne_pc (s : State) (a b : Byte) :
    (s.skipIf (a != b)).pc = if a = b then s.pc else s.pc + 2 := by
  simp only [State.skipIf_eq, State.setPc_pc, bne_iff_ne, ne_eq, ite_not]

/-- Settles O21: each of the four is one `State.skipIf`, on an equality or on its negation. -/
theorem registerSkips : Obligations.RegisterSkips := fun s x y nn =>
  ⟨⟨_, rfl, s.onlyChanges_skipIf _, s.skipIf_beq_pc s.V[x] nn⟩,
   ⟨_, rfl, s.onlyChanges_skipIf _, s.skipIf_bne_pc s.V[x] nn⟩,
   ⟨_, rfl, s.onlyChanges_skipIf _, s.skipIf_beq_pc s.V[x] s.V[y]⟩,
   ⟨_, rfl, s.onlyChanges_skipIf _, s.skipIf_bne_pc s.V[x] s.V[y]⟩⟩

/-! ### Call -/

theorem exec_call_of_push {s t : State} (nnn : Imm12) (h : s.push s.pc = some t) :
    exec (.call nnn) s = .next (t.setPc (zext12 nnn)) := by
  simp only [exec, execCall, h]

theorem exec_call_of_full {s : State} (nnn : Imm12) (h : s.sp.val = 16) :
    exec (.call nnn) s = .next (s.takeFault .stackOverflow (some (encode (.call nnn))) (s.pc - 2) none) := by
  simp only [exec, execCall, (s.push_eq_none s.pc).2 h, raise]

theorem State.exists_push {s : State} (w : Word) (h : s.sp.val < 16) : ∃ t, s.push w = some t :=
  Option.ne_none_iff_exists'.1 (fun hnone => absurd ((s.push_eq_none w).1 hnone) (by omega))

theorem State.push_sp {s t : State} {w : Word} (h : s.push w = some t) : t.sp.val = s.sp.val + 1 := by
  obtain ⟨_, rfl⟩ := State.push_eq_some h
  rfl

theorem State.push_stack_top {s t : State} {w : Word} (h : s.push w = some t) (hs : s.sp.val < 16) :
    t.stack[s.sp.val] = w := by
  obtain ⟨_, rfl⟩ := State.push_eq_some h
  exact Vector.getElem_set_self hs

theorem State.push_stackSameBut {s t : State} {w : Word} (h : s.push w = some t) :
    StackSameBut s.sp.val s t := by
  obtain ⟨hs, rfl⟩ := State.push_eq_some h
  intro k hk
  exact Vector.getElem_set_ne hs k.isLt hk.symm

/-- Settles O23: below 16 entries the call is the push and then the jump; at 16 the push fails, and nothing is written
but the fault. -/
theorem callPushesTheReturnAddress : Obligations.CallPushesTheReturnAddress := by
  intro s nnn
  constructor
  · intro hs
    obtain ⟨t, hpush⟩ := State.exists_push s.pc hs
    have hsp : t.sp.val = s.sp.val + 1 := State.push_sp hpush
    have htop : t.stack[s.sp.val] = s.pc := State.push_stack_top hpush hs
    have hothers : StackSameBut s.sp.val s t := State.push_stackSameBut hpush
    exact ⟨_, exec_call_of_push nnn hpush, zext12_toNat nnn, hsp, htop, hothers,
      (State.push_onlyChanges hpush).setPc _⟩
  · intro hs
    exact exec_call_of_full nnn hs

/-! ### Return -/

theorem exec_ret_of_pop {s t : State} {w : Word} (h : s.pop = some (w, t)) :
    exec .ret s = .next (t.setPc w) := by
  simp only [exec, execRet, h]

theorem exec_ret_of_empty {s : State} (h : s.sp.val = 0) :
    exec .ret s = .next (s.takeFault .stackUnderflow (some (encode .ret)) (s.pc - 2) none) := by
  simp only [exec, execRet, s.pop_eq_none.2 h, raise]

theorem State.exists_pop {s : State} (h : 0 < s.sp.val) : ∃ w t, s.pop = some (w, t) := by
  obtain ⟨⟨w, t⟩, hpop⟩ := Option.ne_none_iff_exists'.1 (fun hnone => absurd (s.pop_eq_none.1 hnone) (by omega))
  exact ⟨w, t, hpop⟩

/-- Settles O24: with an entry the return is the pop and then the jump to what it gave; with none the pop fails, and
nothing is written but the fault. -/
theorem returnPopsTheReturnAddress : Obligations.ReturnPopsTheReturnAddress := by
  intro s
  constructor
  · intro hs
    obtain ⟨w, t, hpop⟩ := State.exists_pop hs
    have hframe : OnlyChanges [.pc, .sp] s (t.setPc w) := (State.pop_onlyChanges hpop).setPc w
    obtain ⟨_, rfl, rfl⟩ := State.pop_eq_some hpop
    exact ⟨_, exec_ret_of_pop hpop, rfl, rfl, hframe⟩
  · intro hs
    exact exec_ret_of_empty hs

end Sys2Proof.Machine
end

section
/-! Register loads and the ALU (spec/42_alu.md): every instruction of the two is one write of a register, or a result
written before its flag. -/

namespace Sys2Proof.Machine

open Sys2Proof

/-! ### One register written -/

theorem State.setV_getElem_self (s : State) (x : Reg) (b : Byte) : (s.setV x b).V[x] = b := by
  rw [State.setV_getElem, if_pos rfl]

theorem RegsSameBut.refl (rs : List Reg) (s : State) : RegsSameBut rs s s := fun _ _ => rfl

theorem RegsSameBut.setV {rs : List Reg} {s t : State} (h : RegsSameBut rs s t) {x : Reg} (hx : x ∈ rs) (b : Byte) :
    RegsSameBut rs s (t.setV x b) := by
  intro q hq
  have hqx : q ≠ x := fun heq => hq (heq ▸ hx)
  rw [State.setV_getElem, if_neg hqx]
  exact h q hq

theorem OnlyChanges.setV {cs : List Component} {s t : State} (h : OnlyChanges cs s t) (hV : Component.V ∈ cs)
    (x : Reg) (b : Byte) : OnlyChanges cs s (t.setV x b) := by
  intro c hc
  have hsame : c.same s t := h c hc
  cases c with
  | V => exact absurd hV hc
  | _ => exact hsame

theorem State.regsSameBut_setV (s : State) (x : Reg) (b : Byte) : RegsSameBut [x] s (s.setV x b) :=
  (RegsSameBut.refl [x] s).setV List.mem_cons_self b

theorem State.onlyChanges_setV (s : State) (x : Reg) (b : Byte) : OnlyChanges [.V] s (s.setV x b) :=
  (OnlyChanges.refl [.V] s).setV List.mem_cons_self x b

/-! ### A result and then its flag -/

theorem State.setResult_getElem_of_ne {x : Reg} (hx : x ≠ 15) (s : State) (r flag : Byte) :
    (s.setResult x r flag).V[x] = r := by
  rw [State.setResult_getElem, if_neg hx, if_pos rfl]

theorem State.setResult_getElem_VF (s : State) (x : Reg) (r flag : Byte) :
    (s.setResult x r flag).V[(15 : Reg)] = flag := by
  rw [State.setResult_getElem, if_pos rfl]

theorem State.regsSameBut_setResult (s : State) (x : Reg) (r flag : Byte) :
    RegsSameBut [x, 15] s (s.setResult x r flag) :=
  ((RegsSameBut.refl [x, 15] s).setV List.mem_cons_self r).setV (List.mem_cons_of_mem x List.mem_cons_self) flag

theorem State.onlyChanges_setResult (s : State) (x : Reg) (r flag : Byte) :
    OnlyChanges [.V] s (s.setResult x r flag) :=
  (s.onlyChanges_setV x r).setV List.mem_cons_self VF flag

/-! ### The arithmetic of results and flags -/

theorem carryFlag_eq (a b : Byte) : carryFlag a b = if 256 ≤ a.toNat + b.toNat then 1 else 0 := by
  simp only [carryFlag, flagByte, decide_eq_true_eq]

theorem noBorrowFlag_eq (a b : Byte) : noBorrowFlag a b = if a.toNat < b.toNat then 0 else 1 := rfl

/-- The difference of integers, which may be negative, wraps into 0 to 255. -/
theorem sub_toNat_int (a b : Byte) : ((a - b).toNat : Int) = ((a.toNat : Int) - b.toNat) % 256 := by
  have hb := b.isLt
  rw [BitVec.toNat_sub]
  omega

theorem shiftOutRight_toNat (a : Byte) : (shiftOutRight a).toNat = a.toNat % 2 := by
  rw [shiftOutRight, BitVec.toNat_and]
  exact Nat.and_one_is_mod _

theorem shiftOutLeft_toNat (a : Byte) : (shiftOutLeft a).toNat = a.toNat / 128 := by
  have ha := a.isLt
  have hmod : (shiftOutLeft a).toNat = (a >>> 7).toNat % 2 := shiftOutRight_toNat (a >>> 7)
  rw [hmod, BitVec.toNat_ushiftRight, Nat.shiftRight_eq_div_pow]
  omega

theorem shiftRight_one_toNat (a : Byte) : (a >>> 1).toNat = a.toNat / 2 := by
  rw [BitVec.toNat_ushiftRight, Nat.shiftRight_eq_div_pow, pow_one]

theorem shiftLeft_one_toNat (a : Byte) : (a <<< 1).toNat = 2 * a.toNat % 256 := by
  rw [BitVec.toNat_shiftLeft, Nat.shiftLeft_eq, pow_one, Nat.mul_comm]

/-! ### Loads and logic: one write, no flag -/

/-- Settles O26: each load is one write of V[x]. -/
theorem registerLoads : Obligations.RegisterLoads := fun s x y nn =>
  ⟨⟨_, rfl, s.setV_getElem_self x nn, s.regsSameBut_setV x _, s.onlyChanges_setV x _⟩,
   ⟨_, rfl, s.setV_getElem_self x s.V[y], s.regsSameBut_setV x _, s.onlyChanges_setV x _⟩,
   ⟨_, rfl, s.setV_getElem_self x s.DT, s.regsSameBut_setV x _, s.onlyChanges_setV x _⟩⟩

/-- Settles O27: the sum of bytes is written to V[x], and VF only where it is V[x]. -/
theorem addImmediateWrapsWithoutFlag : Obligations.AddImmediateWrapsWithoutFlag := by
  intro s x nn
  refine ⟨_, rfl, ?_, s.regsSameBut_setV x _, s.onlyChanges_setV x _⟩
  rw [State.setV_getElem_self]
  exact BitVec.toNat_add ..

/-- Settles O28: each operation of bytes is the operation of their bits, written to V[x]. -/
theorem bitwiseLogic : Obligations.BitwiseLogic := by
  intro s x y
  refine ⟨⟨_, rfl, fun k => ?_, s.regsSameBut_setV x _, s.onlyChanges_setV x _⟩,
    ⟨_, rfl, fun k => ?_, s.regsSameBut_setV x _, s.onlyChanges_setV x _⟩,
    ⟨_, rfl, fun k => ?_, s.regsSameBut_setV x _, s.onlyChanges_setV x _⟩⟩
  · rw [State.setV_getElem_self, BitVec.getLsbD_or]
  · rw [State.setV_getElem_self, BitVec.getLsbD_and]
  · rw [State.setV_getElem_self, BitVec.getLsbD_xor]

/-! ### Arithmetic and shifts: a result, then VF -/

/-- Settles O29: the sum is written to V[x] and then the carry to VF, both from the old operands. -/
theorem addSetsCarry : Obligations.AddSetsCarry := by
  intro s x y
  refine ⟨_, rfl, fun hx => ?_, ?_, s.regsSameBut_setResult x _ _, s.onlyChanges_setResult x _ _⟩
  · rw [State.setResult_getElem_of_ne hx]
    exact BitVec.toNat_add ..
  · rw [State.setResult_getElem_VF, carryFlag_eq]

/-- A difference written to V[x] and its no-borrow flag to VF: what SUB and SUBN do, with their operands in either
order. -/
theorem State.setResult_sub_spec (s : State) (x : Reg) (a b : Byte) :
    (x ≠ 15 → ((s.setResult x (a - b) (noBorrowFlag a b)).V[x].toNat : Int) = ((a.toNat : Int) - b.toNat) % 256) ∧
    (s.setResult x (a - b) (noBorrowFlag a b)).V[(15 : Reg)] = (if a.toNat < b.toNat then 0 else 1) ∧
    RegsSameBut [x, 15] s (s.setResult x (a - b) (noBorrowFlag a b)) ∧
    OnlyChanges [.V] s (s.setResult x (a - b) (noBorrowFlag a b)) := by
  refine ⟨fun hx => ?_, ?_, s.regsSameBut_setResult x _ _, s.onlyChanges_setResult x _ _⟩
  · rw [State.setResult_getElem_of_ne hx, sub_toNat_int]
  · rw [State.setResult_getElem_VF, noBorrowFlag_eq]

/-- Settles O30: the two instructions are one subtraction with its operands exchanged. -/
theorem subtractSetsNoBorrow : Obligations.SubtractSetsNoBorrow := fun s x y =>
  ⟨⟨_, rfl, s.setResult_sub_spec x s.V[x] s.V[y]⟩, ⟨_, rfl, s.setResult_sub_spec x s.V[y] s.V[x]⟩⟩

/-- Settles O31: the result and the flag are functions of the old V[x] alone, so every y answers the same state. -/
theorem shiftsSetTheShiftedOutBit : Obligations.ShiftsSetTheShiftedOutBit := by
  intro s x y
  constructor
  · refine ⟨_, rfl, fun hx => ?_, ?_, s.regsSameBut_setResult x _ _, s.onlyChanges_setResult x _ _, fun _ => rfl⟩
    · rw [State.setResult_getElem_of_ne hx, shiftRight_one_toNat]
    · rw [State.setResult_getElem_VF, shiftOutRight_toNat]
  · refine ⟨_, rfl, fun hx => ?_, ?_, s.regsSameBut_setResult x _ _, s.onlyChanges_setResult x _ _, fun _ => rfl⟩
    · rw [State.setResult_getElem_of_ne hx, shiftLeft_one_toNat]
    · rw [State.setResult_getElem_VF, shiftOutLeft_toNat]

end Sys2Proof.Machine
end

section
/-! The index register, the decimal store and the block transfers (spec/43_index_memory.md): each is one write of I, or
the check of R54 and then one run of stores or of loads. -/

namespace Sys2Proof.Machine

open Sys2Proof

/-! ### The index register -/

theorem State.onlyChanges_setI (s : State) (w : Word) : OnlyChanges [.I] s (s.setI w) := by
  intro c hc
  have hsame := c.same_refl s
  cases c with
  | I => exact absurd List.mem_cons_self hc
  | _ => exact hsame

theorem add_zext8_toNat (w : Word) (b : Byte) : (w + zext8 b).toNat = (w.toNat + b.toNat) % 65536 := by
  rw [BitVec.toNat_add, zext8_toNat]

/-- Five times a byte is at most 1275, so it does not wrap (R163). -/
theorem zext8_mul_five_toNat (b : Byte) : (zext8 b * 5).toNat = 5 * b.toNat := by
  have hb := b.isLt
  have hmul : (zext8 b * 5).toNat = b.toNat * 5 % 65536 := by rw [BitVec.toNat_mul, zext8_toNat]; rfl
  omega

/-- Settles O33: each is one write of I, whose value is an exact number or one modulo 65536. -/
theorem indexRegisterWrites : Obligations.IndexRegisterWrites :=
  ⟨fun s nnn => ⟨_, rfl, zext12_toNat nnn, s.onlyChanges_setI _⟩,
   fun s x => ⟨_, rfl, add_zext8_toNat s.I s.V[x], s.onlyChanges_setI _⟩,
   fun s x => ⟨_, rfl, zext8_mul_five_toNat s.V[x], s.onlyChanges_setI _⟩⟩

/-! ### The check by its last address -/

theorem checked_of_last_inside {op : Word} {n : Nat} {s t : State} (h : s.I.toNat + n < 4096) :
    checked op (n + 1) s t = .next t :=
  checked_of_accessible ((s.accessible_iff _).2 (.inr h))

theorem checked_of_last_outside {op : Word} {n : Nat} {s t : State} (h : 4096 ≤ s.I.toNat + n) :
    ∃ d : Word, d.toNat = max s.I.toNat 4096 ∧ checked op (n + 1) s t =
      .next { s with pc := s.pc - 2, fault := some ⟨.memoryOutOfRange, some op, s.pc - 2, some d⟩ } := by
  have hout : ¬ s.accessible (n + 1) = true := by rw [State.accessible_iff]; omega
  exact ⟨s.lowestOutside, s.lowestOutside_toNat, checked_of_not_accessible hout⟩

/-! ### A run of stores -/

theorem State.onlyChanges_setMem (s : State) (m : Memory) : OnlyChanges [.mem] s (s.setMem m) := by
  intro c hc
  have hsame := c.same_refl s
  cases c with
  | mem => exact absurd List.mem_cons_self hc
  | _ => exact hsame

theorem State.onlyChanges_storeBytes (s : State) (a : Nat) (bs : List Byte) :
    OnlyChanges [.mem] s (s.storeBytes a bs) := by
  rw [State.storeBytes_eq]
  exact s.onlyChanges_setMem _

theorem State.memSameOutside_storeBytes (s : State) (a : Nat) (bs : List Byte) :
    MemSameOutside a bs.length s (s.storeBytes a bs) := by
  intro b hb
  rw [State.readByte_storeBytes, dif_neg hb]

theorem State.readByte_storeBytes_add (s : State) (a : Nat) {bs : List Byte} {k : Nat} (hk : k < bs.length) :
    (s.storeBytes a bs).readByte (a + k) = bs[k] := by
  rw [State.readByte_storeBytes, dif_pos ⟨Nat.le_add_right a k, Nat.add_lt_add_left hk a⟩]
  simp only [Nat.add_sub_cancel_left]

/-! ### The decimal store -/

/-- Each digit is below 256, so its byte holds it. -/
theorem bcdDigits_map_toNat (v : Byte) :
    (bcdDigits v).map BitVec.toNat = [v.toNat / 100, v.toNat / 10 % 10, v.toNat % 10] := by
  have hv := v.isLt
  simp only [bcdDigits, List.map_cons, List.map_nil, BitVec.toNat_ofNat, List.cons.injEq, and_true]
  omega

theorem State.readByte_storeBytes_bcdDigits (s : State) (a : Nat) (v : Byte) {k : Nat} (hk : k < 3) :
    ((s.storeBytes a (bcdDigits v)).readByte (a + k)).toNat =
      [v.toNat / 100, v.toNat / 10 % 10, v.toNat % 10][k] := by
  have hlen : k < (bcdDigits v).length := hk
  rw [s.readByte_storeBytes_add a hlen]
  simp only [← bcdDigits_map_toNat, List.getElem_map]

/-- Settles O35: the check over three bytes, and then the three digits stored in a run from I. -/
theorem decimalStore : Obligations.DecimalStore := by
  intro s x
  have hdigit := fun k (hk : k < 3) => s.readByte_storeBytes_bcdDigits s.I.toNat s.V[x] hk
  exact ⟨fun hin => ⟨_, checked_of_last_inside hin, hdigit 0 (by decide), hdigit 1 (by decide), hdigit 2 (by decide),
    s.memSameOutside_storeBytes s.I.toNat (bcdDigits s.V[x]), s.onlyChanges_storeBytes _ _⟩, checked_of_last_outside⟩

/-! ### The block transfers -/

theorem State.getElem_valuesUpTo (s : State) {x k : Reg} (h : k.val < (s.valuesUpTo x).length) :
    (s.valuesUpTo x)[k.val] = s.V[k] := by
  have hk : k.val < (regsUpTo x).length := by rwa [s.length_valuesUpTo, ← length_regsUpTo x] at h
  have hreg : (regsUpTo x)[k.val] = k := Fin.ext (getElem_regsUpTo x k.val hk)
  simp only [State.valuesUpTo, List.getElem_map, hreg]

/-- Settles O36: the check over x + 1 bytes, and then V[0] to V[x] stored in a run from I. -/
theorem blockStore : Obligations.BlockStore := by
  intro s x
  have hlen : (s.valuesUpTo x).length = x.val + 1 := s.length_valuesUpTo x
  refine ⟨fun hin => ⟨_, checked_of_last_inside hin, fun k hk => ?_, ?_, s.onlyChanges_storeBytes _ _⟩,
    checked_of_last_outside⟩
  · have hlt : k.val < (s.valuesUpTo x).length := by rw [hlen]; exact Nat.lt_succ_of_le hk
    exact (s.readByte_storeBytes_add s.I.toNat hlt).trans (s.getElem_valuesUpTo hlt)
  · exact hlen ▸ s.memSameOutside_storeBytes s.I.toNat (s.valuesUpTo x)

theorem OnlyChanges.loadList {cs : List Component} {s t : State} (h : OnlyChanges cs s t) (hV : Component.V ∈ cs)
    (ks : List Reg) : OnlyChanges cs s (t.loadList ks) := by
  induction ks generalizing t with
  | nil => exact h
  | cons k ks ih => exact ih (h.setV hV k _)

theorem State.onlyChanges_loadList (s : State) (ks : List Reg) : OnlyChanges [.V] s (s.loadList ks) :=
  (OnlyChanges.refl [.V] s).loadList List.mem_cons_self ks

/-- Settles O37: the check over x + 1 bytes, and then the registers up to x, and no other, loaded from I. -/
theorem blockLoad : Obligations.BlockLoad := by
  intro s x
  refine ⟨fun hin => ⟨_, checked_of_last_inside hin, fun k hk => ?_, fun k hk => ?_, s.onlyChanges_loadList _⟩,
    checked_of_last_outside⟩
  · rw [State.loadList_getElem, if_pos ((mem_regsUpTo x k).2 hk)]
  · rw [State.loadList_getElem, if_neg (fun hmem => absurd ((mem_regsUpTo x k).1 hmem) (Fin.not_le.2 hk))]

end Sys2Proof.Machine
end

section
/-! Display clear and the sprite draw (spec/44_display.md): the two loops of R182 are one run of flips over the pixels
under the sprite's one bits, and those pixels are distinct. -/

namespace Sys2Proof.Machine

open Sys2Proof

/-! ### The display written -/

theorem OnlyChanges.setDisplay {cs : List Component} {s t : State} (h : OnlyChanges cs s t)
    (hdisplay : Component.display ∈ cs) (d : Display) : OnlyChanges cs s (t.setDisplay d) := by
  intro c hc
  have hsame : c.same s t := h c hc
  cases c with
  | display => exact absurd hdisplay hc
  | _ => exact hsame

theorem State.onlyChanges_setDisplay (s : State) (d : Display) : OnlyChanges [.display] s (s.setDisplay d) :=
  (OnlyChanges.refl [.display] s).setDisplay List.mem_cons_self d

/-- Settles O40: the blank display is the only write. -/
theorem clearDisplay : Obligations.ClearDisplay := fun s =>
  ⟨_, rfl, Display.pixel_blank, s.onlyChanges_setDisplay _⟩

/-! ### A run of flips -/

/-- The pixels listed (column, row), each inverted in turn. -/
def flipAll (ps : List (Fin 64 × Fin 32)) (acc : Display × Bool) : Display × Bool :=
  ps.foldl (fun a p => flipPixel p.1 p.2 a) acc

theorem flipAll_cons (p : Fin 64 × Fin 32) (ps : List (Fin 64 × Fin 32)) (acc : Display × Bool) :
    flipAll (p :: ps) acc = flipAll ps (flipPixel p.1 p.2 acc) := rfl

theorem flipAll_append (ps qs : List (Fin 64 × Fin 32)) (acc : Display × Bool) :
    flipAll (ps ++ qs) acc = flipAll qs (flipAll ps acc) := List.foldl_append

theorem flipPixel_pixel (p q : Fin 64 × Fin 32) (acc : Display × Bool) :
    (flipPixel p.1 p.2 acc).1.pixel q.1 q.2 = (acc.1.pixel q.1 q.2 ^^ decide (q = p)) := by
  rw [flipPixel, Display.pixel_setPixel]
  by_cases hq : q = p
  · simp [hq]
  · rw [if_neg (fun h => hq (Prod.ext h.1 h.2))]
    simp [hq]

/-- Flips of distinct pixels invert exactly the pixels listed. -/
theorem flipAll_pixel {ps : List (Fin 64 × Fin 32)} (hps : ps.Nodup) (acc : Display × Bool) (q : Fin 64 × Fin 32) :
    (flipAll ps acc).1.pixel q.1 q.2 = (acc.1.pixel q.1 q.2 ^^ decide (q ∈ ps)) := by
  induction ps generalizing acc with
  | nil => simp [flipAll]
  | cons p ps ih =>
    obtain ⟨hp, hps⟩ := List.nodup_cons.1 hps
    rw [flipAll_cons, ih hps, flipPixel_pixel]
    by_cases hq : q = p
    · simp [hq, hp]
    · simp [hq]

/-- Flips of distinct pixels note a collision exactly when one of them was lit at the start. -/
theorem flipAll_collision {ps : List (Fin 64 × Fin 32)} (hps : ps.Nodup) (acc : Display × Bool) :
    (flipAll ps acc).2 = true ↔ acc.2 = true ∨ ∃ q ∈ ps, acc.1.pixel q.1 q.2 = true := by
  induction ps generalizing acc with
  | nil => simp [flipAll]
  | cons p ps ih =>
    obtain ⟨hp, hps⟩ := List.nodup_cons.1 hps
    have hkeep : ∀ q ∈ ps, (flipPixel p.1 p.2 acc).1.pixel q.1 q.2 = acc.1.pixel q.1 q.2 := by
      intro q hq
      have hne : q ≠ p := fun h => hp (h ▸ hq)
      simp [flipPixel_pixel, hne]
    have hflag : (flipPixel p.1 p.2 acc).2 = true ↔ acc.2 = true ∨ acc.1.pixel p.1 p.2 = true := Bool.or_eq_true_iff
    rw [flipAll_cons, ih hps, hflag, List.exists_mem_cons_iff, or_assoc]
    exact or_congr_right (or_congr_right (exists_congr fun q => and_congr_right fun hq => by rw [hkeep q hq]))

/-! ### The pixels under a sprite -/

/-- The pixels under the one bits of one sprite row. -/
def rowPixels (b : Byte) (ox : Nat) (r : Fin 32) (cols : List Nat) : List (Fin 64 × Fin 32) :=
  (cols.filter (spriteBit b)).map (fun col => (wrapCol ox col, r))

/-- The pixels under the one bits of the sprite rows listed. -/
def spritePixels (rowByte : Nat → Byte) (ox oy : Nat) (rows : List Nat) : List (Fin 64 × Fin 32) :=
  rows.flatMap (fun row => rowPixels (rowByte row) ox (wrapRow oy row) (List.range 8))

theorem renderCols_eq_flipAll (b : Byte) (ox : Nat) (r : Fin 32) (cols : List Nat) (acc : Display × Bool) :
    renderCols b ox r cols acc = flipAll (rowPixels b ox r cols) acc := by
  induction cols generalizing acc with
  | nil => rfl
  | cons col cols ih =>
    rw [renderCols, ih]
    cases hbit : spriteBit b col with
    | true => simp [rowPixels, hbit, flipAll_cons]
    | false => simp [rowPixels, hbit]

theorem renderRows_eq_flipAll (rowByte : Nat → Byte) (ox oy : Nat) (rows : List Nat) (acc : Display × Bool) :
    renderRows rowByte ox oy rows acc = flipAll (spritePixels rowByte ox oy rows) acc := by
  induction rows generalizing acc with
  | nil => rfl
  | cons row rows ih =>
    rw [renderRows, ih, renderCols_eq_flipAll, ← flipAll_append]
    rfl

theorem mem_rowPixels {b : Byte} {ox : Nat} {r : Fin 32} {cols : List Nat} {q : Fin 64 × Fin 32} :
    q ∈ rowPixels b ox r cols ↔ ∃ col ∈ cols, spriteBit b col = true ∧ wrapCol ox col = q.1 ∧ r = q.2 := by
  simp [rowPixels, Prod.ext_iff, and_assoc]

/-- Eight columns do not wrap onto one another on a display 64 wide. -/
theorem wrapCol_injOn {ox a b : Nat} (ha : a < 8) (hb : b < 8) (h : wrapCol ox a = wrapCol ox b) : a = b := by
  have hmod : (ox + a) % 64 = (ox + b) % 64 := congrArg Fin.val h
  omega

/-- At most 32 rows do not wrap onto one another on a display 32 high. -/
theorem wrapRow_injOn {oy a b : Nat} (ha : a < 32) (hb : b < 32) (h : wrapRow oy a = wrapRow oy b) : a = b := by
  have hmod : (oy + a) % 32 = (oy + b) % 32 := congrArg Fin.val h
  omega

theorem nodup_rowPixels (b : Byte) (ox : Nat) (r : Fin 32) : (rowPixels b ox r (List.range 8)).Nodup := by
  have hlt : ∀ a ∈ (List.range 8).filter (spriteBit b), a < 8 := fun a ha => List.mem_range.1 (List.mem_filter.1 ha).1
  exact (List.nodup_range.filter _).map_on fun a ha a' ha' h =>
    wrapCol_injOn (hlt a ha) (hlt a' ha') (Prod.ext_iff.1 h).1

/-- A sprite's one bits lie on distinct pixels: columns differ within a row, and rows differ from one another. -/
theorem nodup_spritePixels (rowByte : Nat → Byte) (ox oy : Nat) {h : Nat} (hh : h ≤ 32) :
    (spritePixels rowByte ox oy (List.range h)).Nodup := by
  refine List.nodup_flatMap.2 ⟨fun row _ => nodup_rowPixels _ _ _, ?_⟩
  refine List.nodup_range.imp_of_mem fun {a a'} ha ha' hne q hq hq' => hne ?_
  obtain ⟨_, _, _, _, hr⟩ := mem_rowPixels.1 hq
  obtain ⟨_, _, _, _, hr'⟩ := mem_rowPixels.1 hq'
  have := List.mem_range.1 ha
  have := List.mem_range.1 ha'
  exact wrapRow_injOn (by omega) (by omega) (hr.trans hr'.symm)

/-! ### The draw -/

/-- The pixels that `Dxyn` inverts in a state. -/
def State.spritePixels (s : State) (x y : Reg) (n : Nibble) : List (Fin 64 × Fin 32) :=
  Machine.spritePixels (fun row => s.readByte (s.indexAddr row)) s.V[x].toNat s.V[y].toNat (List.range n.toNat)

theorem State.sprite_eq_flipAll (s : State) (x y : Reg) (n : Nibble) :
    s.sprite x y n = flipAll (s.spritePixels x y n) (s.display, false) :=
  renderRows_eq_flipAll ..

theorem State.nodup_spritePixels (s : State) (x y : Reg) (n : Nibble) : (s.spritePixels x y n).Nodup := by
  have hn := n.isLt
  exact Machine.nodup_spritePixels _ _ _ (by omega)

theorem State.mem_spritePixels (s : State) (x y : Reg) (n : Nibble) (c : Fin 64) (r : Fin 32) :
    (c, r) ∈ s.spritePixels x y n ↔ SpriteOn s x y n c r := by
  simp only [State.spritePixels, Machine.spritePixels, List.mem_flatMap, List.mem_range, mem_rowPixels]
  constructor
  · rintro ⟨row, hrow, col, hcol, hbit, hc, hr⟩
    exact ⟨row, col, hrow, hcol, congrArg Fin.val hc, congrArg Fin.val hr, hbit⟩
  · rintro ⟨row, col, hrow, hcol, hc, hr, hbit⟩
    exact ⟨row, hrow, col, hcol, hbit, Fin.ext hc, Fin.ext hr⟩

theorem State.sprite_pixel (s : State) (x y : Reg) (n : Nibble) (c : Fin 64) (r : Fin 32) :
    (s.sprite x y n).1.pixel c r = (s.display.pixel c r ^^ decide ((c, r) ∈ s.spritePixels x y n)) := by
  rw [State.sprite_eq_flipAll]
  exact flipAll_pixel (s.nodup_spritePixels x y n) (s.display, false) (c, r)

/-- A draw collides exactly when it turns some lit pixel unlit (R185). -/
theorem State.sprite_collision (s : State) (x y : Reg) (n : Nibble) :
    (s.sprite x y n).2 = true ↔
      ∃ (c : Fin 64) (r : Fin 32), s.display.pixel c r = true ∧ (s.sprite x y n).1.pixel c r = false := by
  have hout (c : Fin 64) (r : Fin 32) : (s.display.pixel c r = true ∧ (s.sprite x y n).1.pixel c r = false) ↔
      ((c, r) ∈ s.spritePixels x y n ∧ s.display.pixel c r = true) := by
    rw [State.sprite_pixel, and_comm]
    exact and_congr_left fun hlit => by simp [hlit]
  simp only [hout]
  rw [State.sprite_eq_flipAll, flipAll_collision (s.nodup_spritePixels x y n)]
  simp [Prod.exists]

theorem State.accessible_nibble_iff (s : State) (n : Nibble) :
    s.accessible n.toNat = true ↔ n = 0 ∨ s.I.toNat + n.toNat ≤ 4096 := by
  rw [State.accessible_iff, BitVec.toNat_eq]
  rfl

/-- The state after a draw that the check lets through (R183). -/
def State.draw (s : State) (x y : Reg) (n : Nibble) : State :=
  (s.setDisplay (s.sprite x y n).1).setV VF (flagByte (s.sprite x y n).2)

theorem exec_drw_of_inside {s : State} {n : Nibble} (x y : Reg) (h : n = 0 ∨ s.I.toNat + n.toNat ≤ 4096) :
    exec (.drw x y n) s = .next (s.draw x y n) :=
  checked_of_accessible ((s.accessible_nibble_iff n).2 h)

theorem exec_drw_of_outside {s : State} {n : Nibble} (x y : Reg) (hn : n ≠ 0) (h : 4096 < s.I.toNat + n.toNat) :
    exec (.drw x y n) s =
      .next (s.takeFault .memoryOutOfRange (some (encode (.drw x y n))) (s.pc - 2) (some s.lowestOutside)) :=
  checked_of_not_accessible fun hin => ((s.accessible_nibble_iff n).1 hin).elim hn (Nat.not_le.2 h)

@[simp] theorem State.draw_display (s : State) (x y : Reg) (n : Nibble) :
    (s.draw x y n).display = (s.sprite x y n).1 := rfl

theorem State.draw_VF (s : State) (x y : Reg) (n : Nibble) :
    (s.draw x y n).V[(15 : Reg)] = flagByte (s.sprite x y n).2 := State.setV_getElem_self ..

theorem State.regsSameBut_draw (s : State) (x y : Reg) (n : Nibble) : RegsSameBut [15] s (s.draw x y n) :=
  (s.setDisplay _).regsSameBut_setV VF _

theorem State.onlyChanges_draw (s : State) (x y : Reg) (n : Nibble) : OnlyChanges [.V, .display] s (s.draw x y n) :=
  ((OnlyChanges.refl _ s).setDisplay (List.mem_cons_of_mem _ List.mem_cons_self) _).setV List.mem_cons_self VF _

/-- Settles O41: the draw is one run of flips over distinct pixels, those under the sprite's one bits. -/
theorem drawInvertsTheSprite : Obligations.DrawInvertsTheSprite := by
  intro s x y n
  refine ⟨fun hin => ⟨s.draw x y n, exec_drw_of_inside x y hin, fun c r => ?_, fun hcol => ?_, fun hcol => ?_,
    s.regsSameBut_draw x y n, s.onlyChanges_draw x y n⟩,
    fun hn hout => ⟨s.lowestOutside, s.lowestOutside_toNat, exec_drw_of_outside x y hn hout⟩⟩
  · rw [State.draw_display, State.sprite_pixel, ← State.mem_spritePixels]
    cases s.display.pixel c r <;> simp
  · rw [State.draw_VF, (s.sprite_collision x y n).2 hcol]
    rfl
  · rw [State.draw_VF, Bool.eq_false_iff.2 (mt (s.sprite_collision x y n).1 hcol)]
    rfl

/-- With the registers put back, a second draw inverts the same pixels: a draw writes neither I nor memory. -/
theorem State.spritePixels_after_draw (s : State) (x y : Reg) (n : Nibble) :
    State.spritePixels { s.draw x y n with V := s.V } x y n = s.spritePixels x y n := rfl

/-- Settles O42: the second draw inverts the pixels the first one inverted, and no other. -/
theorem drawingTwiceRestoresTheDisplay : Obligations.DrawingTwiceRestoresTheDisplay := by
  intro s x y n hin
  refine ⟨_, _, exec_drw_of_inside x y hin, exec_drw_of_inside x y hin, Display.ext_pixel fun c r => ?_⟩
  rw [State.draw_display, State.sprite_pixel, State.spritePixels_after_draw]
  simp [State.sprite_pixel]

end Sys2Proof.Machine
end

section
/-! The key skips, the key wait and the timer writes (spec/45_keys_timers.md), each with its frame. -/

namespace Sys2Proof.Machine

open Sys2Proof

/-! ### Skips on a key -/

theorem exec_skp_of_key {s : State} {x k : Reg} (hk : s.V[x].toNat = k.val) :
    exec (.skp x) s = .next (s.skipIf s.keys[k]) := by
  simp only [exec, execSkp, keyOf_eq_some.2 hk]

theorem exec_sknp_of_key {s : State} {x k : Reg} (hk : s.V[x].toNat = k.val) :
    exec (.sknp x) s = .next (s.skipIf (!s.keys[k])) := by
  simp only [exec, execSknp, keyOf_eq_some.2 hk]

theorem exec_skp_of_no_key {s : State} {x : Reg} (hout : 16 ≤ s.V[x].toNat) :
    exec (.skp x) s = .next (s.takeFault .keyIndexOutOfRange (some (encode (.skp x))) (s.pc - 2) none) := by
  simp only [exec, execSkp, keyOf_eq_none.2 hout, raise]

theorem exec_sknp_of_no_key {s : State} {x : Reg} (hout : 16 ≤ s.V[x].toNat) :
    exec (.sknp x) s = .next (s.takeFault .keyIndexOutOfRange (some (encode (.sknp x))) (s.pc - 2) none) := by
  simp only [exec, execSknp, keyOf_eq_none.2 hout, raise]

theorem State.skipIf_pc (s : State) (c : Bool) : (s.skipIf c).pc = if c then s.pc + 2 else s.pc := by
  rw [State.skipIf_eq, State.setPc_pc]

theorem State.skipIf_not_pc (s : State) (c : Bool) : (s.skipIf (!c)).pc = if c then s.pc else s.pc + 2 := by
  rw [State.skipIf_pc]
  cases c <;> rfl

/-- Settles O43: where V[x] names a key, each of the two is one `State.skipIf`, on the key or on its negation; where it
names none, nothing is written but the fault. -/
theorem keySkips : Obligations.KeySkips := by
  intro s x
  constructor
  · intro k hk
    exact ⟨⟨_, exec_skp_of_key hk, s.onlyChanges_skipIf _, s.skipIf_pc _⟩,
      ⟨_, exec_sknp_of_key hk, s.onlyChanges_skipIf _, s.skipIf_not_pc _⟩⟩
  · intro hout
    exact ⟨exec_skp_of_no_key hout, exec_sknp_of_no_key hout⟩

/-! ### Waiting for a key -/

/-- The least pressed key is the one found: two least pressed keys are not below one another. -/
theorem lowestKey_eq_some_of_least {keys : Vector Bool 16} {k : Reg} (hk : keys[k] = true)
    (hleast : ∀ j : Reg, j < k → keys[j] = false) : lowestKey keys = some k := by
  cases hfound : lowestKey keys with
  | none => exact absurd hk (Bool.eq_false_iff.1 (lowestKey_eq_none.1 hfound k))
  | some j =>
    obtain ⟨hj, hbelow⟩ := lowestKey_eq_some hfound
    have hjk : ¬ j < k := fun hlt => Bool.eq_false_iff.1 (hleast j hlt) hj
    have hkj : ¬ k < j := fun hlt => Bool.eq_false_iff.1 (hbelow k hlt) hk
    rw [le_antisymm (not_lt.1 hkj) (not_lt.1 hjk)]

theorem exec_ldVxK_of_least_key {s : State} {k : Reg} (x : Reg) (hk : s.keys[k] = true)
    (hleast : ∀ j : Reg, j < k → s.keys[j] = false) :
    exec (.ldVxK x) s = .next (s.setV x (BitVec.ofNat 8 k.val)) := by
  simp only [exec, execLdVxK, lowestKey_eq_some_of_least hk hleast]

/-- A key's number fits a byte. -/
theorem keyByte_toNat (k : Reg) : (BitVec.ofNat 8 k.val).toNat = k.val := by
  have hk := k.isLt
  rw [BitVec.toNat_ofNat, Nat.mod_eq_of_lt (by omega)]

/-- Settles O44: with a least pressed key the wait is one write of V[x]; with none it is one write of pc. -/
theorem keyWait : Obligations.KeyWait := by
  intro s x
  constructor
  · intro k hk hleast
    refine ⟨_, exec_ldVxK_of_least_key x hk hleast, ?_, s.regsSameBut_setV x _, s.onlyChanges_setV x _⟩
    rw [State.setV_getElem_self, keyByte_toNat]
  · intro hkeys
    exact ⟨_, exec_ldVxK_of_no_key x hkeys, rfl, s.onlyChanges_setPc _⟩

/-! ### Timers -/

theorem OnlyChanges.setDT {cs : List Component} {s t : State} (h : OnlyChanges cs s t) (hDT : Component.DT ∈ cs)
    (b : Byte) : OnlyChanges cs s (t.setDT b) := by
  intro c hc
  have hsame : c.same s t := h c hc
  cases c with
  | DT => exact absurd hDT hc
  | _ => exact hsame

theorem OnlyChanges.setST {cs : List Component} {s t : State} (h : OnlyChanges cs s t) (hST : Component.ST ∈ cs)
    (b : Byte) : OnlyChanges cs s (t.setST b) := by
  intro c hc
  have hsame : c.same s t := h c hc
  cases c with
  | ST => exact absurd hST hc
  | _ => exact hsame

/-- Settles O45: each is one write of its timer. -/
theorem timerWrites : Obligations.TimerWrites := fun s x =>
  ⟨⟨_, rfl, s.setDT_DT s.V[x], (OnlyChanges.refl [.DT] s).setDT List.mem_cons_self _⟩,
   ⟨_, rfl, s.setST_ST s.V[x], (OnlyChanges.refl [.ST] s).setST List.mem_cons_self _⟩⟩

end Sys2Proof.Machine
end

section
/-! Faults and the host's commands (spec/60_exceptions.md): which fault a tick raises, and what the timer, the load and
the key commands do, halted or not. -/

namespace Sys2Proof.Machine

open Sys2Proof

/-! ### The one fault kind of an instruction -/

theorem wellFormedWord_of_decode_error {w : Word} {e : DecodeError} (h : decode w = .error e) :
    wellFormedWord w = false := by
  rw [← Bool.not_eq_true, ← decode_ok_iff]
  rintro ⟨i, hi⟩
  cases hi.symm.trans h

/-- Settles O13: the three cases of a faulting tick (`step_fault_cases`), in the order of the checks. -/
theorem oneFaultKindPerInstruction : Obligations.OneFaultKindPerInstruction := by
  intro s t r hfault hstep hr
  obtain ⟨kind, rfl, hcases⟩ := step_fault_cases hfault hstep hr
  cases hr
  rcases hcases with hfetch | ⟨hpc, ⟨e, herror⟩, hkind⟩ | hrule
  · exact .inl hfetch
  · exact .inr (.inl ⟨hpc, wellFormedWord_of_decode_error herror, hkind⟩)
  · exact .inr (.inr hrule)

/-! ### Timers -/

/-- R240: the subtraction stops at 0. -/
theorem decrement_toNat (b : Byte) : (decrement b).toNat = b.toNat - 1 := by
  unfold decrement
  split
  · bv_omega
  · omega

theorem State.onlyChanges_tickTimers (s : State) : OnlyChanges [.DT, .ST] s s.tickTimers :=
  ((OnlyChanges.refl _ s).setDT List.mem_cons_self _).setST (List.mem_cons_of_mem _ List.mem_cons_self) _

theorem perform_tickTimers (s : State) : perform .tickTimers s = .next (s.tickTimers, .ok) := rfl

theorem decrement_of_pos {b : Byte} (h : 0 < b.toNat) : (decrement b).toNat + 1 = b.toNat := by
  rw [decrement_toNat, Nat.sub_add_cancel h]

theorem decrement_of_eq_zero {b : Byte} (h : b = 0) : decrement b = 0 := by
  rw [h]
  rfl

/-- Settles O46: the command decrements each timer, and writes nothing else. -/
theorem timersCountDown : Obligations.TimersCountDown := fun s =>
  ⟨s.tickTimers, perform_tickTimers s, decrement_of_pos, decrement_of_eq_zero, decrement_of_pos, decrement_of_eq_zero,
    s.onlyChanges_tickTimers⟩

/-! ### Keys -/

theorem perform_keyPress_of_key (s : State) (k : Reg) (pressed : Bool) :
    perform (.keyPress k.val pressed) s = .next (s.setKey k pressed, .ok) := by
  rw [perform, State.keyPress, dif_pos k.isLt]

theorem perform_keyPress_of_no_key (s : State) {index : Nat} (pressed : Bool) (h : 16 ≤ index) :
    perform (.keyPress index pressed) s = .next (s, .invalidKeyIndex) := by
  rw [perform, State.keyPress, dif_neg (Nat.not_lt.2 h)]

theorem State.setKey_getElem_self (s : State) (k : Reg) (pressed : Bool) : (s.setKey k pressed).keys[k] = pressed := by
  rw [State.setKey_getElem, if_pos rfl]

theorem State.onlyChanges_setKey (s : State) (k : Reg) (pressed : Bool) :
    OnlyChanges [.keys] s (s.setKey k pressed) := by
  intro c hc
  have hsame := c.same_refl s
  cases c with
  | keys => exact absurd List.mem_cons_self hc
  | _ => exact hsame

/-- Settles O49: an index that names a key is one write of that key; another is refused. -/
theorem keyPressSetsOneKey : Obligations.KeyPressSetsOneKey := by
  intro s pressed
  refine ⟨fun k => ⟨_, perform_keyPress_of_key s k pressed, s.setKey_getElem_self k pressed, fun j hj => ?_,
    s.onlyChanges_setKey k pressed⟩, fun index => perform_keyPress_of_no_key s pressed⟩
  rw [State.setKey_getElem, if_neg hj]

/-! ### Loading an image -/

theorem perform_load_of_fits (s : State) {rom : List Byte} (h : rom.length ≤ 3584) :
    perform (.load rom) s = .next (s.storeBytes 0x200 rom, .ok) := by
  rw [perform, State.load, if_pos h]

theorem perform_load_of_too_long (s : State) {rom : List Byte} (h : 3584 < rom.length) :
    perform (.load rom) s = .next (s, .loadOverflow) := by
  rw [perform, State.load, if_neg (Nat.not_le.2 h)]

/-- Settles O48: both commands check before they write. -/
theorem badHostCommandsChangeNothing : Obligations.BadHostCommandsChangeNothing :=
  ⟨fun s _ => perform_load_of_too_long s, fun s _ pressed => perform_keyPress_of_no_key s pressed⟩

/-! ### The commands of a halted core -/

/-- Settles O52: the tick is that of a halted core (`haltedUntilReset`); the other commands do not look at FAULT, and
none but `reset` writes it. -/
theorem hostCommandsWorkWhileHalted : Obligations.HostCommandsWorkWhileHalted := by
  intro s r hfault
  obtain ⟨-, htick, -⟩ := haltedUntilReset s r hfault
  refine ⟨htick, ?_, ?_, rfl, ?_, s.resetCore, rfl, rfl⟩
  · exact ⟨s.tickTimers, perform_tickTimers s, decrement_toNat s.DT, decrement_toNat s.ST, hfault⟩
  · intro k b
    exact ⟨s.setKey k b, perform_keyPress_of_key s k b, s.setKey_getElem_self k b, hfault⟩
  · intro rom hfits
    exact ⟨s.storeBytes 0x200 rom, perform_load_of_fits s hfits, (s.storeBytes_fault 0x200 rom).trans hfault,
      fun _ hk => s.readByte_storeBytes_add 0x200 hk⟩

end Sys2Proof.Machine
end

section
/-! The host's `load` (spec/70_reset_and_hazards.md): what it writes, and what it leaves unchanged. -/

namespace Sys2Proof.Machine

open Sys2Proof

/-- Settles O47: an image that fits is one run of stores from 0x200. -/
theorem loadCopiesTheImage : Obligations.LoadCopiesTheImage := by
  intro s rom hfits
  have hbyte : ∀ (k : Nat) (hk : k < rom.length), (s.storeBytes 0x200 rom).readByte (0x200 + k) = rom[k] :=
    fun _ hk => s.readByte_storeBytes_add 0x200 hk
  exact ⟨s.storeBytes 0x200 rom, perform_load_of_fits s hfits, hbyte, s.memSameOutside_storeBytes 0x200 rom,
    s.onlyChanges_storeBytes 0x200 rom⟩

end Sys2Proof.Machine
end

section
/-! Encoding (spec/30_encoding.md): the decoder inverts the encoder both ways, a word's number is the sum of its fields,
and no word meets two rows of the table. -/

namespace Sys2Proof

/-! ### The round trip -/

theorem decode_encode (i : Instr) : decode (encode i) = .ok i := by
  cases i with
  | nop => exact Laws.RoundTrip.nop
  | cls => exact Laws.RoundTrip.cls
  | ret => exact Laws.RoundTrip.ret
  | jp nnn => exact Laws.RoundTrip.jp nnn
  | call nnn => exact Laws.RoundTrip.call nnn
  | seImm x nn => exact Laws.RoundTrip.seImm x nn
  | sneImm x nn => exact Laws.RoundTrip.sneImm x nn
  | seReg x y => exact Laws.RoundTrip.seReg x y
  | ldImm x nn => exact Laws.RoundTrip.ldImm x nn
  | addImm x nn => exact Laws.RoundTrip.addImm x nn
  | ldReg x y => exact Laws.RoundTrip.ldReg x y
  | orReg x y => exact Laws.RoundTrip.orReg x y
  | andReg x y => exact Laws.RoundTrip.andReg x y
  | xorReg x y => exact Laws.RoundTrip.xorReg x y
  | addReg x y => exact Laws.RoundTrip.addReg x y
  | subReg x y => exact Laws.RoundTrip.subReg x y
  | shr x y => exact Laws.RoundTrip.shr x y
  | subnReg x y => exact Laws.RoundTrip.subnReg x y
  | shl x y => exact Laws.RoundTrip.shl x y
  | sneReg x y => exact Laws.RoundTrip.sneReg x y
  | ldI nnn => exact Laws.RoundTrip.ldI nnn
  | jpV0 nnn => exact Laws.RoundTrip.jpV0 nnn
  | rnd x nn => exact Laws.RoundTrip.rnd x nn
  | drw x y n => exact Laws.RoundTrip.drw x y n
  | skp x => exact Laws.RoundTrip.skp x
  | sknp x => exact Laws.RoundTrip.sknp x
  | ldVxDT x => exact Laws.RoundTrip.ldVxDT x
  | ldVxK x => exact Laws.RoundTrip.ldVxK x
  | ldDTVx x => exact Laws.RoundTrip.ldDTVx x
  | ldSTVx x => exact Laws.RoundTrip.ldSTVx x
  | addI x => exact Laws.RoundTrip.addI x
  | ldF x => exact Laws.RoundTrip.ldF x
  | ldB x => exact Laws.RoundTrip.ldB x
  | storeRegs x => exact Laws.RoundTrip.storeRegs x
  | loadRegs x => exact Laws.RoundTrip.loadRegs x

/-- Settles O1: the round trip of each constructor, put together. -/
theorem decodeOfEncode : Obligations.DecodeOfEncode := decode_encode

/-- Settles O2: every arm of the decoder keeps every bit of the word (`encode_of_decode`). -/
theorem encodeOfDecode : Obligations.EncodeOfDecode := fun _ _ => encode_of_decode

theorem decode_eq_ok_iff {w : Word} {i : Instr} : decode w = .ok i ↔ w = encode i :=
  ⟨fun h => (encode_of_decode h).symm, fun h => h ▸ decode_encode i⟩

/-! ### A word's number -/

theorem append_toNat {m n : Nat} (a : BitVec m) (b : BitVec n) : (a ++ b).toNat = 2 ^ n * a.toNat + b.toNat := by
  rw [BitVec.toNat_append, ← Nat.shiftLeft_add_eq_or_of_lt b.isLt, Nat.shiftLeft_eq, Nat.mul_comm]

theorem regNibble_toNat (x : Reg) : (regNibble x).toNat = x.val := rfl

theorem wordNNN_toNat (o : Nibble) (nnn : Imm12) : (wordNNN o nnn).toNat = 4096 * o.toNat + nnn.toNat :=
  append_toNat ..

theorem wordXNN_toNat (o : Nibble) (x : Reg) (nn : Byte) :
    (wordXNN o x nn).toNat = 4096 * o.toNat + 256 * x.val + nn.toNat := by
  rw [wordXNN, append_toNat, append_toNat, regNibble_toNat, ← Nat.add_assoc]
  rfl

theorem wordXYN_toNat (o : Nibble) (x y : Reg) (n : Nibble) :
    (wordXYN o x y n).toNat = 4096 * o.toNat + 256 * x.val + 16 * y.val + n.toNat := by
  rw [wordXYN, append_toNat, append_toNat, append_toNat, regNibble_toNat, regNibble_toNat, ← Nat.add_assoc,
    ← Nat.add_assoc]
  rfl

theorem encode_toNat (i : Instr) : (encode i).toNat = wordNumber i := by
  cases i with
  | nop | cls | ret => rfl
  | jp nnn | call nnn | ldI nnn | jpV0 nnn => exact wordNNN_toNat _ nnn
  | seImm x nn | sneImm x nn | ldImm x nn | addImm x nn | rnd x nn => exact wordXNN_toNat _ x nn
  | drw x y n => exact wordXYN_toNat _ x y n
  | seReg x y | sneReg x y | ldReg x y | orReg x y | andReg x y | xorReg x y | addReg x y | subReg x y | shr x y
  | subnReg x y | shl x y =>
    rw [encode, wordXYN_toNat, wordNumber]
    simp only [BitVec.reduceToNat]
    omega
  | skp x | sknp x | ldVxDT x | ldVxK x | ldDTVx x | ldSTVx x | addI x | ldF x | ldB x | storeRegs x | loadRegs x =>
    rw [encode, wordXNN_toNat, wordNumber]
    simp only [BitVec.reduceToNat]
    omega

/-- Settles O3: a word decodes to the instruction whose word it is, and that word's number is the sum of its fields. -/
theorem everyFieldIsReadFromItsPlace : Obligations.EveryFieldIsReadFromItsPlace := fun w i => by
  rw [decode_eq_ok_iff, BitVec.toNat_eq, encode_toNat]

/-- Settles O6: each word is, digit by digit, the one its instruction is encoded to. -/
theorem sampleWordsDecode : Obligations.SampleWordsDecode :=
  ⟨decode_encode (.addReg 0xA 0xB), decode_encode (.drw 1 2 5), decode_encode (.jpV0 0x123),
    decode_encode (.loadRegs 2), decode_encode (.seImm 0xA 0x7F), decode_encode .ret, decode_encode (.sknp 5)⟩

/-! ### The rows of the table -/

/-- Two rows ask for different bits under the mask they share, so no word can meet both. -/
def OpRow.Conflicts (r q : OpRow) : Prop := r.pattern &&& q.mask ≠ q.pattern &&& r.mask

theorem OpRow.Conflicts.ne {r q : OpRow} (h : r.Conflicts q) : r ≠ q := fun heq => h (by rw [heq])

theorem OpRow.Conflicts.symm {r q : OpRow} (h : r.Conflicts q) : q.Conflicts r := Ne.symm h

theorem OpRow.not_conflicts_of_holds {r q : OpRow} {w : Word} (hr : r.holds w = true) (hq : q.holds w = true) :
    ¬ r.Conflicts q := by
  rw [OpRow.holds_iff] at hr hq
  rw [OpRow.Conflicts, ← hr, ← hq, BitVec.and_assoc, BitVec.and_assoc, BitVec.and_comm r.mask, not_not]

theorem opRows_pairwise_conflicts : opRows.Pairwise OpRow.Conflicts := by
  unfold OpRow.Conflicts
  decide

/-- Settles O5: any two rows of the table disagree on a bit that both fix (`opRows_pairwise_conflicts`). -/
theorem opcodeRowsAreDisjoint : Obligations.OpcodeRowsAreDisjoint := by
  refine ⟨rfl, opRows_pairwise_conflicts.imp OpRow.Conflicts.ne, fun w r q hr hq hrw hqw => ?_⟩
  have : Std.Symm OpRow.Conflicts := ⟨fun _ _ => OpRow.Conflicts.symm⟩
  by_contra hne
  exact OpRow.not_conflicts_of_holds hrw hqw (opRows_pairwise_conflicts.forall hr hq hne)

end Sys2Proof
end

section
/-! What an instruction changes (spec/10_state.md R22, R23, R28 to R35; spec/40_execution_cycle.md R96): the two outcomes
of every instruction, each with its frame. -/

namespace Sys2Proof.Machine

open Sys2Proof

/-! ### The two outcomes -/

/-- The instruction has completed: only its listed components and its listed registers may differ. -/
def ChangesOnlyItsOwn (i : Instr) (s t : State) : Prop :=
  OnlyChanges (mayChange i) s t ∧ RegsSameBut (regsWritten i) s t

/-- The instruction has taken the one fault R230 gives it. -/
def TakesItsFault (i : Instr) (s t : State) : Prop :=
  ∃ kind d, faultKind i = some kind ∧ t = s.takeFault kind (some (encode i)) (s.pc - 2) d

theorem ChangesOnlyItsOwn.of_V_unchanged {i : Instr} {s t : State} {cs : List Component} (h : OnlyChanges cs s t)
    (hcs : mayChange i = cs) (hV : Component.V ∉ cs) : ChangesOnlyItsOwn i s t :=
  ⟨hcs ▸ h, fun r _ => h .V hV r⟩

theorem ChangesOnlyItsOwn.setV {i : Instr} {s t : State} {x : Reg} (h : ChangesOnlyItsOwn i s t)
    (hV : Component.V ∈ mayChange i) (hx : x ∈ regsWritten i) (b : Byte) : ChangesOnlyItsOwn i s (t.setV x b) :=
  ⟨h.1.setV hV x b, h.2.setV hx b⟩

theorem ChangesOnlyItsOwn.refl (i : Instr) (s : State) : ChangesOnlyItsOwn i s s :=
  ⟨OnlyChanges.refl _ s, RegsSameBut.refl _ s⟩

/-! ### Frames of the remaining updates -/

theorem OnlyChanges.mono {cs ds : List Component} {s t : State} (h : OnlyChanges cs s t) (hcs : cs ⊆ ds) :
    OnlyChanges ds s t := fun c hc => h c fun hmem => hc (hcs hmem)

theorem OnlyChanges.countDraw {cs : List Component} {s t : State} (h : OnlyChanges cs s t)
    (hdraws : Component.draws ∈ cs) : OnlyChanges cs s t.countDraw := by
  intro c hc
  have hsame : c.same s t := h c hc
  cases c with
  | draws => exact absurd hdraws hc
  | _ => exact hsame

theorem State.onlyChanges_takeFault (s : State) (kind : FaultKind) (op : Option Word) (p : Word) (d : Option Word) :
    OnlyChanges [.pc, .fault] s (s.takeFault kind op p d) := by
  intro c hc
  have hsame := c.same_refl s
  cases c with
  | pc | fault => exact absurd (by decide) hc
  | _ => exact hsame

theorem State.regsSameBut_loadList (s : State) (ks : List Reg) : RegsSameBut ks s (s.loadList ks) := by
  intro r hr
  rw [State.loadList_getElem, if_neg hr]

theorem regsWritten_loadRegs (x k : Reg) : k ∈ regsWritten (.loadRegs x) ↔ k ∈ regsUpTo x := by
  simp [regsWritten, mem_regsUpTo]

/-- The check of R54 lets the instruction complete or takes its fault. -/
theorem checked_outcomes {i : Instr} {s t : State} (n : Nat) (hkind : faultKind i = some .memoryOutOfRange)
    (h : ChangesOnlyItsOwn i s t) :
    ∃ u, checked (encode i) n s t = .next u ∧ (ChangesOnlyItsOwn i s u ∨ TakesItsFault i s u) := by
  rcases checked_cases (encode i) n s t with ⟨-, hnext⟩ | ⟨-, hnext⟩
  · exact ⟨t, hnext, .inl h⟩
  · exact ⟨_, hnext, .inr ⟨_, _, hkind, rfl⟩⟩

/-! ### Every instruction -/

/-- Every instruction answers: it completes, or it takes its one fault. -/
theorem exec_outcomes (i : Instr) (s : State) :
    ∃ t, exec i s = .next t ∧ (ChangesOnlyItsOwn i s t ∨ TakesItsFault i s t) := by
  cases i with
  | nop => exact ⟨s, rfl, .inl (.refl _ s)⟩
  | cls => exact ⟨_, rfl, .inl (.of_V_unchanged (s.onlyChanges_setDisplay _) rfl (by decide))⟩
  | jp nnn | jpV0 nnn => exact ⟨_, rfl, .inl (.of_V_unchanged (s.onlyChanges_setPc _) rfl (by decide))⟩
  | seImm x nn | sneImm x nn | seReg x y | sneReg x y =>
    exact ⟨_, rfl, .inl (.of_V_unchanged (s.onlyChanges_skipIf _) rfl (by decide))⟩
  | ldI nnn | addI x | ldF x => exact ⟨_, rfl, .inl (.of_V_unchanged (s.onlyChanges_setI _) rfl (by decide))⟩
  | ldDTVx x =>
    have hframe := (OnlyChanges.refl [.DT] s).setDT List.mem_cons_self s.V[x]
    exact ⟨_, rfl, .inl (.of_V_unchanged hframe rfl (by decide))⟩
  | ldSTVx x =>
    have hframe := (OnlyChanges.refl [.ST] s).setST List.mem_cons_self s.V[x]
    exact ⟨_, rfl, .inl (.of_V_unchanged hframe rfl (by decide))⟩
  | ldImm x nn | addImm x nn | ldVxDT x | ldReg x y | orReg x y | andReg x y | xorReg x y =>
    exact ⟨_, rfl, .inl ⟨s.onlyChanges_setV x _, s.regsSameBut_setV x _⟩⟩
  | addReg x y | subReg x y | shr x y | subnReg x y | shl x y =>
    exact ⟨_, rfl, .inl ⟨s.onlyChanges_setResult x _ _, s.regsSameBut_setResult x _ _⟩⟩
  | rnd x nn =>
    have hframe := (OnlyChanges.refl [.V, .draws] s).setV List.mem_cons_self x (Config.randomByte s.draws &&& nn)
    exact ⟨_, rfl, .inl ⟨hframe.countDraw (by decide), s.regsSameBut_setV x _⟩⟩
  | call nnn =>
    by_cases hs : s.sp.val < 16
    · obtain ⟨t, hpush⟩ := State.exists_push s.pc hs
      have hframe := (State.push_onlyChanges hpush).setPc (zext12 nnn)
      exact ⟨_, exec_call_of_push nnn hpush, .inl (.of_V_unchanged hframe rfl (by decide))⟩
    · exact ⟨_, exec_call_of_full nnn (by omega), .inr ⟨_, _, rfl, rfl⟩⟩
  | ret =>
    by_cases hs : 0 < s.sp.val
    · obtain ⟨w, t, hpop⟩ := State.exists_pop hs
      have hframe := (State.pop_onlyChanges hpop).setPc w
      exact ⟨_, exec_ret_of_pop hpop, .inl (.of_V_unchanged hframe rfl (by decide))⟩
    · exact ⟨_, exec_ret_of_empty (by omega), .inr ⟨_, _, rfl, rfl⟩⟩
  | skp x =>
    by_cases hkey : s.V[x].toNat < 16
    · exact ⟨_, exec_skp_of_key (k := ⟨_, hkey⟩) rfl,
        .inl (.of_V_unchanged (s.onlyChanges_skipIf _) rfl (by decide))⟩
    · exact ⟨_, exec_skp_of_no_key (by omega), .inr ⟨_, _, rfl, rfl⟩⟩
  | sknp x =>
    by_cases hkey : s.V[x].toNat < 16
    · exact ⟨_, exec_sknp_of_key (k := ⟨_, hkey⟩) rfl,
        .inl (.of_V_unchanged (s.onlyChanges_skipIf _) rfl (by decide))⟩
    · exact ⟨_, exec_sknp_of_no_key (by omega), .inr ⟨_, _, rfl, rfl⟩⟩
  | ldVxK x =>
    cases hkey : lowestKey s.keys with
    | some k =>
      obtain ⟨hk, hleast⟩ := lowestKey_eq_some hkey
      exact ⟨_, exec_ldVxK_of_least_key x hk hleast,
        .inl ((ChangesOnlyItsOwn.refl _ s).setV List.mem_cons_self List.mem_cons_self _)⟩
    | none =>
      exact ⟨_, exec_ldVxK_of_no_key x (lowestKey_eq_none.1 hkey),
        .inl ⟨(s.onlyChanges_setPc _).mono (List.subset_cons_self ..), RegsSameBut.refl _ s⟩⟩
  | drw x y n => exact checked_outcomes _ rfl ⟨s.onlyChanges_draw x y n, s.regsSameBut_draw x y n⟩
  | ldB x | storeRegs x =>
    exact checked_outcomes _ rfl (.of_V_unchanged (s.onlyChanges_storeBytes _ _) rfl (by decide))
  | loadRegs x =>
    have hregs : RegsSameBut (regsWritten (.loadRegs x)) s (s.loadList (regsUpTo x)) :=
      fun r hr => s.regsSameBut_loadList _ r fun hmem => hr ((regsWritten_loadRegs x r).2 hmem)
    exact checked_outcomes _ rfl ⟨s.onlyChanges_loadList _, hregs⟩

theorem fault_not_mem_mayChange (i : Instr) : Component.fault ∉ mayChange i := by cases i <;> exact nofun

theorem font_not_mem_mayChange (i : Instr) : Component.font ∉ mayChange i := by cases i <;> exact nofun

/-- Settles O14: the two outcomes of `exec_outcomes`; completing keeps FAULT, which no instruction lists. -/
theorem instructionsChangeOnlyTheirOwn : Obligations.InstructionsChangeOnlyTheirOwn := by
  intro i s hfault
  obtain ⟨t, hexec, ⟨hframe, -⟩ | ⟨kind, d, hkind, rfl⟩⟩ := exec_outcomes i s
  · have hkeep : t.fault = s.fault := hframe .fault (fault_not_mem_mayChange i)
    exact ⟨t, hexec, .inl ⟨hkeep.trans hfault, hframe⟩⟩
  · exact ⟨_, hexec, .inr ⟨_, rfl, hkind, rfl, s.onlyChanges_takeFault _ _ _ _⟩⟩

/-- Settles O15: a completed instruction writes its listed registers only, and a fault writes none. -/
theorem registerWritersAreTheListedOnes : Obligations.RegisterWritersAreTheListedOnes := by
  intro i s t r hexec hchanged
  obtain ⟨u, hu, houtcome⟩ := exec_outcomes i s
  cases hu.symm.trans hexec
  by_contra hr
  rcases houtcome with ⟨-, hregs⟩ | ⟨kind, d, -, rfl⟩
  · exact hchanged (hregs r hr)
  · exact hchanged rfl

/-- Settles O32: one write of V[x], and one count of the draw. -/
theorem randomDrawIsMasked : Obligations.RandomDrawIsMasked := by
  intro s x nn
  have hframe := (OnlyChanges.refl [.V, .draws] s).setV List.mem_cons_self x (Config.randomByte s.draws &&& nn)
  exact ⟨_, rfl, s.setV_getElem_self x _, rfl, s.regsSameBut_setV x _, hframe.countDraw (by decide)⟩

/-! ### Every tick answers -/

theorem exec_answers (i : Instr) (s : State) : ∃ t, exec i s = .next t :=
  (exec_outcomes i s).imp fun _ h => h.1

theorem step_answers (s : State) : ∃ t, step s = .next t := by
  rcases step_cases s with ⟨-, h⟩ | ⟨-, -, h⟩ | ⟨-, -, i, -, h⟩ | ⟨-, -, e, -, h⟩
  case inr.inr.inl => exact h ▸ exec_answers i s.afterFetch
  all_goals exact ⟨_, h⟩

theorem State.tickReport_of_no_fault {s : State} (h : s.fault = none) : s.tickReport = .completed := by
  rw [State.tickReport, h]

/-- Settles O11: every branch of the tick answers (`step_answers`), and the report reads FAULT. -/
theorem everyTickAnswersNext : Obligations.EveryTickAnswersNext := by
  intro s
  obtain ⟨t, hstep⟩ := step_answers s
  have hreport := perform_tick_of_step hstep
  refine ⟨t, hstep, fun hnone => ?_, fun r hr => ?_⟩
  · rw [hreport, State.tickReport_of_no_fault hnone]
  · rw [hreport, State.tickReport_of_fault hr]

end Sys2Proof.Machine
end

section
/-! The invariant (spec/10_state.md R27, R36): its bounds are kept by every instruction from the pc of a fetch, and a
fault recorded by a tick fits the pc of that tick. -/

namespace Sys2Proof.Machine

open Sys2Proof

/-! ### The part of the invariant that does not speak of FAULT -/

/-- Memory in canonical form, pc and the stack entries within their bounds. -/
def State.Bounded (s : State) : Prop :=
  Memory.wf s.font s.mem = true ∧ s.pc.toNat ≤ 0x10FE ∧ ∀ j : Fin 16, s.stack[j].toNat ≤ 0x1000

theorem State.inv_iff (s : State) : s.Inv ↔ s.Bounded ∧ ∀ r, s.fault = some r → r.Fits s.pc := by
  simp only [State.Inv, State.Bounded, and_assoc]

theorem State.Bounded.setPc {s : State} (h : s.Bounded) {w : Word} (hw : w.toNat ≤ 0x10FE) : (s.setPc w).Bounded :=
  let ⟨hwf, _, hstack⟩ := h
  ⟨hwf, hw, hstack⟩

theorem State.Bounded.takeFault {s : State} (h : s.Bounded) (kind : FaultKind) (op : Option Word) {p : Word}
    (hp : p.toNat ≤ 0x10FE) (d : Option Word) : (s.takeFault kind op p d).Bounded :=
  h.setPc hp

theorem State.Bounded.storeBytes {s : State} (h : s.Bounded) {a : Nat} {bs : List Byte} (ha : a + bs.length ≤ 4096) :
    (s.storeBytes a bs).Bounded := by
  obtain ⟨hwf, hpc, hstack⟩ := h
  have hmem := s.wf_storeBytes a bs ha hwf
  rw [State.storeBytes_eq]
  exact ⟨hmem, hpc, hstack⟩

theorem State.Bounded.loadList {s : State} (h : s.Bounded) (ks : List Reg) : (s.loadList ks).Bounded := by
  rw [State.loadList_eq]
  exact h

theorem State.Bounded.push {s t : State} {w : Word} (h : s.Bounded) (hpush : s.push w = some t)
    (hw : w.toNat ≤ 0x1000) : t.Bounded := by
  obtain ⟨hwf, hpc, hstack⟩ := h
  obtain ⟨hs, rfl⟩ := State.push_eq_some hpush
  refine ⟨hwf, hpc, fun j => ?_⟩
  by_cases hj : s.sp.val = j.val
  · simpa only [Fin.getElem_fin, hj, Vector.getElem_set_self] using hw
  · simpa only [Fin.getElem_fin, Vector.getElem_set_ne hs j.isLt hj] using hstack j

/-- What a return jumps to is a stack entry, so it is within the bound of pc. -/
theorem State.Bounded.pop {s t : State} {w : Word} (h : s.Bounded) (hpop : s.pop = some (w, t)) :
    t.Bounded ∧ w.toNat ≤ 0x10FE := by
  obtain ⟨hs, rfl, rfl⟩ := State.pop_eq_some hpop
  have hentry := h.2.2 ⟨s.sp.val - 1, by omega⟩
  exact ⟨h, hentry.trans (by decide)⟩

/-! ### Every instruction keeps the bounds -/

/-- The pc of a state after fetch. -/
def State.PcAfterFetch (s : State) : Prop := 2 ≤ s.pc.toNat ∧ s.pc.toNat ≤ 0x1000

theorem State.Bounded.raised {s : State} (h : s.Bounded) (hpc : s.PcAfterFetch) (kind : FaultKind)
    (op d : Option Word) : (s.takeFault kind op (s.pc - 2) d).Bounded := by
  obtain ⟨hlo, hhi⟩ := hpc
  exact h.takeFault _ _ (by bv_omega) _

theorem State.Bounded.skipIf {s : State} (h : s.Bounded) (hpc : s.PcAfterFetch) (c : Bool) : (s.skipIf c).Bounded := by
  obtain ⟨hlo, hhi⟩ := hpc
  have hskip : (s.pc + 2).toNat ≤ 0x10FE := by bv_omega
  cases c with
  | false => exact h
  | true => exact h.setPc hskip

theorem State.Bounded.checked {s t : State} {n : Nat} (h : s.Bounded) (hpc : s.PcAfterFetch) (op : Word)
    (ht : s.accessible n = true → t.Bounded) : ∃ u, checked op n s t = .next u ∧ u.Bounded := by
  rcases checked_cases op n s t with ⟨hin, hnext⟩ | ⟨-, hnext⟩
  · exact ⟨t, hnext, ht hin⟩
  · exact ⟨_, hnext, h.raised hpc _ _ _⟩

theorem State.le_of_accessible {s : State} {n : Nat} (h : s.accessible (n + 1) = true) : s.I.toNat + (n + 1) ≤ 4096 :=
  ((s.accessible_iff _).1 h).resolve_left n.succ_ne_zero

theorem exec_keeps_bounded (i : Instr) {s : State} (h : s.Bounded) (hpc : s.PcAfterFetch) :
    ∃ t, exec i s = .next t ∧ t.Bounded := by
  cases i with
  | nop | cls | ldI nnn | addI x | ldF x | ldDTVx x | ldSTVx x | ldVxDT x | rnd x nn | ldImm x nn | addImm x nn
  | ldReg x y | orReg x y | andReg x y | xorReg x y | addReg x y | subReg x y | shr x y | subnReg x y | shl x y =>
    exact ⟨_, rfl, h⟩
  | jp nnn =>
    have hnnn := nnn.isLt
    exact ⟨_, rfl, h.setPc (by rw [zext12_toNat]; omega)⟩
  | jpV0 nnn =>
    have hV := s.V[0].isLt
    have hnnn := nnn.isLt
    exact ⟨_, rfl, h.setPc (by rw [zext8_add_zext12_toNat]; omega)⟩
  | seImm x nn | sneImm x nn | seReg x y | sneReg x y => exact ⟨_, rfl, h.skipIf hpc _⟩
  | call nnn =>
    by_cases hs : s.sp.val < 16
    · obtain ⟨t, hpush⟩ := State.exists_push s.pc hs
      have hnnn := nnn.isLt
      exact ⟨_, exec_call_of_push nnn hpush, (h.push hpush hpc.2).setPc (by rw [zext12_toNat]; omega)⟩
    · exact ⟨_, exec_call_of_full nnn (by omega), h.raised hpc _ _ _⟩
  | ret =>
    by_cases hs : 0 < s.sp.val
    · obtain ⟨w, t, hpop⟩ := State.exists_pop hs
      obtain ⟨ht, hw⟩ := h.pop hpop
      exact ⟨_, exec_ret_of_pop hpop, ht.setPc hw⟩
    · exact ⟨_, exec_ret_of_empty (by omega), h.raised hpc _ _ _⟩
  | skp x =>
    by_cases hkey : s.V[x].toNat < 16
    · exact ⟨_, exec_skp_of_key (k := ⟨_, hkey⟩) rfl, h.skipIf hpc _⟩
    · exact ⟨_, exec_skp_of_no_key (by omega), h.raised hpc _ _ _⟩
  | sknp x =>
    by_cases hkey : s.V[x].toNat < 16
    · exact ⟨_, exec_sknp_of_key (k := ⟨_, hkey⟩) rfl, h.skipIf hpc _⟩
    · exact ⟨_, exec_sknp_of_no_key (by omega), h.raised hpc _ _ _⟩
  | ldVxK x =>
    cases hkey : lowestKey s.keys with
    | some k =>
      obtain ⟨hk, hleast⟩ := lowestKey_eq_some hkey
      exact ⟨_, exec_ldVxK_of_least_key x hk hleast, h⟩
    | none =>
      obtain ⟨hlo, hhi⟩ := hpc
      exact ⟨_, exec_ldVxK_of_no_key x (lowestKey_eq_none.1 hkey), h.setPc (by bv_omega)⟩
  | drw x y n => exact h.checked hpc _ fun _ => h
  | ldB x =>
    exact h.checked hpc _ fun hin => h.storeBytes (State.le_of_accessible hin)
  | storeRegs x =>
    refine h.checked hpc _ fun hin => h.storeBytes ?_
    rw [State.length_valuesUpTo]
    exact State.le_of_accessible hin
  | loadRegs x => exact h.checked hpc _ fun _ => h.loadList _

/-! ### Every tick keeps the invariant -/

theorem State.pcAfterFetch_afterFetch {s : State} (hpc : s.pc.toNat < 4095) : s.afterFetch.PcAfterFetch := by
  rw [State.PcAfterFetch, State.afterFetch_pc_toNat hpc]
  omega

theorem State.Bounded.afterFetch {s : State} (h : s.Bounded) (hpc : s.pc.toNat < 4095) : s.afterFetch.Bounded :=
  h.setPc ((State.pcAfterFetch_afterFetch hpc).2.trans (by decide))

theorem step_keeps_bounded {s t : State} (h : s.Bounded) (hstep : step s = .next t) : t.Bounded := by
  rcases step_cases s with ⟨-, heq⟩ | ⟨-, -, heq⟩ | ⟨-, hpc, i, -, heq⟩ | ⟨-, hpc, -, -, heq⟩
  · cases heq.symm.trans hstep
    exact h
  · cases heq.symm.trans hstep
    exact h.takeFault _ _ h.2.1 _
  · obtain ⟨u, hexec, hu⟩ := exec_keeps_bounded i (h.afterFetch hpc) (State.pcAfterFetch_afterFetch hpc)
    cases (heq.trans hexec).symm.trans hstep
    exact hu
  · cases heq.symm.trans hstep
    exact (h.afterFetch hpc).takeFault _ _ h.2.1 _

/-- The record of R222 fits the pc of the tick, if its kind is `FetchOutOfRange` exactly where no word can be fetched. -/
theorem State.recordOf_fits {s : State} {kind : FaultKind} (h : kind = .fetchOutOfRange ↔ 4095 ≤ s.pc.toNat) :
    (s.recordOf kind).Fits s.pc := by
  refine ⟨rfl, by simp [State.recordOf], h, by simp [State.recordOf], fun d hd => ?_⟩
  obtain ⟨-, rfl⟩ : kind = .memoryOutOfRange ∧ s.lowestOutside = d := by simpa [State.recordOf] using hd
  exact s.lowestOutside_toNat ▸ Nat.le_max_right ..

/-- Among the faults of a tick, `FetchOutOfRange` is the one at a pc no word can be fetched from (R99). -/
theorem step_fault_fits {s t : State} {r : FaultRecord} (hfault : s.fault = none) (hstep : step s = .next t)
    (hr : t.fault = some r) : r.Fits t.pc := by
  obtain ⟨kind, rfl, hcases⟩ := step_fault_cases hfault hstep hr
  cases hr
  refine State.recordOf_fits ?_
  rcases hcases with ⟨hpc, rfl⟩ | ⟨hpc, -, rfl⟩ | ⟨hpc, i, -, hkind⟩
  · exact iff_of_true rfl hpc
  · exact iff_of_false nofun (by omega)
  · exact iff_of_false (fun h => faultKind_ne_fetchOutOfRange i (h ▸ hkind)) (by omega)

/-- Settles O17: a halted tick changes nothing, and any other keeps the bounds and records a fault that fits its pc. -/
theorem everyTickKeepsTheInvariant : Obligations.EveryTickKeepsTheInvariant := by
  intro s t hinv hstep
  cases hfault : s.fault with
  | some r =>
    cases (step_of_halted hfault).symm.trans hstep
    exact hinv
  | none =>
    have hbounded := step_keeps_bounded (s.inv_iff.1 hinv).1 hstep
    exact t.inv_iff.2 ⟨hbounded, fun r hr => step_fault_fits hfault hstep hr⟩

/-! ### Every command keeps the invariant -/

theorem State.newCore_inv (font : Config.Font) : (State.newCore font).Inv :=
  ⟨Memory.wf_reset font, (by decide : (0x200 : Word).toNat ≤ 0x10FE), fun j => by simp [State.newCore, State.reset],
    nofun⟩

/-- Settles O16: nothing is listed, no fault is recorded, and every bound is met by 0 or by 0x200. -/
theorem resetMeetsTheInvariant : Obligations.ResetMeetsTheInvariant :=
  ⟨State.newCore_inv defaultFont, State.newCore_inv⟩

theorem State.storeBytes_inv {s : State} (h : s.Inv) {a : Nat} {bs : List Byte} (ha : a + bs.length ≤ 4096) :
    (s.storeBytes a bs).Inv := by
  obtain ⟨hbounded, hfits⟩ := s.inv_iff.1 h
  refine (State.inv_iff _).2 ⟨hbounded.storeBytes ha, ?_⟩
  rw [State.storeBytes_eq]
  exact hfits

theorem State.load_inv {s : State} (h : s.Inv) (rom : List Byte) : (s.load rom).1.Inv := by
  unfold State.load
  split
  next hfits => exact State.storeBytes_inv h (Nat.add_le_add_left hfits 0x200)
  next => exact h

theorem State.keyPress_inv {s : State} (h : s.Inv) (index : Nat) (pressed : Bool) :
    (s.keyPress index pressed).1.Inv := by
  unfold State.keyPress
  split <;> exact h

theorem State.load_font (s : State) (rom : List Byte) : (s.load rom).1.font = s.font := by
  unfold State.load
  split
  · exact s.storeBytes_font ..
  · rfl

theorem State.keyPress_font (s : State) (index : Nat) (pressed : Bool) :
    (s.keyPress index pressed).1.font = s.font := by
  unfold State.keyPress
  split <;> rfl

theorem exec_font {i : Instr} {s t : State} (h : exec i s = .next t) : t.font = s.font := by
  obtain ⟨u, hu, houtcome⟩ := exec_outcomes i s
  cases hu.symm.trans h
  rcases houtcome with ⟨hframe, -⟩ | ⟨_, _, -, rfl⟩
  · exact hframe .font (font_not_mem_mayChange i)
  · rfl

theorem step_font {s t : State} (h : step s = .next t) : t.font = s.font := by
  rcases step_cases s with ⟨-, heq⟩ | ⟨-, -, heq⟩ | ⟨-, -, i, -, heq⟩ | ⟨-, -, -, -, heq⟩
  case inr.inr.inl =>
    have hkeep : t.font = s.afterFetch.font := exec_font (heq.symm.trans h)
    exact hkeep
  all_goals
    cases heq.symm.trans h
    rfl

/-- Every command answers, and keeps the invariant and the font. -/
theorem perform_keeps_inv (c : Command) {s : State} (h : s.Inv) :
    ∃ p, perform c s = .next p ∧ p.1.Inv ∧ p.1.font = s.font := by
  cases c with
  | new | reset => exact ⟨_, rfl, State.newCore_inv s.font, rfl⟩
  | load rom => exact ⟨_, rfl, State.load_inv h rom, s.load_font rom⟩
  | keyPress index pressed => exact ⟨_, rfl, State.keyPress_inv h index pressed, s.keyPress_font index pressed⟩
  | tick =>
    obtain ⟨t, hstep⟩ := step_answers s
    exact ⟨_, perform_tick_of_step hstep, everyTickKeepsTheInvariant s t h hstep, step_font hstep⟩
  | tickTimers | getDisplay | readST | readFault => exact ⟨_, rfl, h, rfl⟩

/-- Settles O18: one case per command, of which the tick is O17. -/
theorem everyCommandKeepsTheInvariant : Obligations.EveryCommandKeepsTheInvariant := by
  intro c s t a hinv hperform
  obtain ⟨p, hp, hkeep, -⟩ := perform_keeps_inv c hinv
  cases hp.symm.trans hperform
  exact hkeep

theorem performAll_cons_of_perform {c : Command} {s : State} {p : State × Response} (h : perform c s = .next p)
    (cs : List Command) : performAll (c :: cs) s = performAll cs p.1 := by
  rw [performAll, h]

theorem performAll_keeps_inv (cs : List Command) {s : State} (h : s.Inv) :
    ∃ t, performAll cs s = .next t ∧ t.Inv ∧ t.font = s.font := by
  induction cs generalizing s with
  | nil => exact ⟨s, rfl, h, rfl⟩
  | cons c cs ih =>
    obtain ⟨p, hp, hinv, hfont⟩ := perform_keeps_inv c h
    rw [performAll_cons_of_perform hp, ← hfont]
    exact ih hinv

/-- Settles O19: the invariant, kept along the run from `new`, bounds pc and keeps the canonical form. -/
theorem everyCommandSequenceStaysBounded : Obligations.EveryCommandSequenceStaysBounded := by
  intro font cs
  obtain ⟨t, hrun, ⟨hwf, hpc, -⟩, hfont⟩ := performAll_keeps_inv cs (State.newCore_inv font)
  have hkeep : t.font = font := hfont
  exact ⟨t, hrun, hpc, hkeep, hkeep ▸ hwf⟩

end Sys2Proof.Machine
end

section
/-! Two instructions in a row (spec/41_flow.md, spec/43_index_memory.md, spec/20_memory.md R64): a skip over the next
word, a return after a call, a load after a store, and the fetch of a stored word. -/

namespace Sys2Proof.Machine

open Sys2Proof

/-! ### Skips -/

/-- A skip that is taken, on the state after fetch: four more than the pc before the tick. -/
theorem State.skip_afterFetch (s : State) : s.afterFetch.skip = { s with pc := s.pc + 4 } := by
  have hpc : s.pc + 2 + 2 = s.pc + 4 := by bv_omega
  rw [← hpc]
  rfl

theorem State.skipIf_of_true {s : State} {c : Bool} (h : c = true) : s.skipIf c = s.skip := by
  rw [State.skipIf, if_pos h]

/-- Settles O22: each of the six is one `State.skipIf` whose condition holds. -/
theorem skippedWordIsNotExecuted : Obligations.SkippedWordIsNotExecuted := by
  intro s i x y nn hfault hpc hdecode htaken
  have hskip : exec i s.afterFetch = .next s.afterFetch.skip := by
    rcases htaken with
      ⟨rfl, h⟩ | ⟨rfl, h⟩ | ⟨rfl, h⟩ | ⟨rfl, h⟩ | ⟨k, rfl, hk, h⟩ | ⟨k, rfl, hk, h⟩
    · exact congrArg _ (State.skipIf_of_true (beq_iff_eq.2 h))
    · exact congrArg _ (State.skipIf_of_true (bne_iff_ne.2 h))
    · exact congrArg _ (State.skipIf_of_true (beq_iff_eq.2 h))
    · exact congrArg _ (State.skipIf_of_true (bne_iff_ne.2 h))
    · exact (exec_skp_of_key (s := s.afterFetch) hk).trans (congrArg _ (State.skipIf_of_true h))
    · exact (exec_sknp_of_key (s := s.afterFetch) hk).trans (congrArg _ (State.skipIf_of_true (congrArg not h)))
  refine ⟨?_, by bv_omega⟩
  rw [step_of_decode hfault hpc hdecode, hskip, State.skip_afterFetch]

/-! ### A return after a call -/

/-- Settles O25: the entry that the return pops is the one the call pushed (O23, O24). -/
theorem returnUndoesCall : Obligations.ReturnUndoesCall := by
  intro s nnn hs
  obtain ⟨t, hcall, -, htsp, htop, -⟩ := (callPushesTheReturnAddress s nnn).1 hs
  refine ⟨t, hcall, fun u hstack husp => ?_⟩
  have hu : u.sp.val = s.sp.val + 1 := by rw [husp, htsp]
  obtain ⟨v, hret, hvsp, hvpc, -⟩ := (returnPopsTheReturnAddress u).1 (by omega)
  refine ⟨v, hret, ?_, Fin.ext (by omega)⟩
  rw [hvpc, ← htop]
  simp only [hstack, hu, Nat.add_sub_cancel]

/-! ### A load after a store -/

/-- Settles O38: the load reads the bytes the store wrote, from the I it kept (O36, O37). -/
theorem blockLoadUndoesBlockStore : Obligations.BlockLoadUndoesBlockStore := by
  intro s x V' hin
  obtain ⟨t, hstore, hbytes, -, htframe⟩ := (blockStore s x).1 hin
  have htI : t.I = s.I := htframe .I (by decide)
  have hin' : t.I.toNat + x.val < 4096 := htI ▸ hin
  obtain ⟨u, hload, hlow, hhigh, huframe⟩ := (blockLoad { t with V := V' } x).1 hin'
  have huI : u.I = t.I := huframe .I (by decide)
  refine ⟨t, u, hstore, hload, fun k hk => ?_, hhigh, huI.trans htI⟩
  calc u.V[k] = t.readByte (t.I.toNat + k.val) := hlow k hk
    _ = s.V[k] := by rw [htI, hbytes k hk]

/-! ### A stored word -/

/-- Settles O39: the two bytes at I + k are the two registers stored there (O36), so they are the word fetched. -/
theorem storedWordIsFetched : Obligations.StoredWordIsFetched := by
  intro s x k i hfault hin hk hdecode
  obtain ⟨t, hstore, hbytes, -, hframe⟩ := (blockStore s x).1 hin
  have htfault : t.fault = none := (hframe .fault (by decide)).trans hfault
  refine ⟨t, hstore, fun p hp => ?_⟩
  have hhi : t.readByte p.toNat = s.V[k] := hp ▸ hbytes k (Fin.le_def.2 (by omega))
  have hlo : t.readByte (p.toNat + 1) = s.V[k.val + 1] := by
    rw [hp, Nat.add_assoc]
    exact hbytes ⟨k.val + 1, by omega⟩ hk
  have hword : (t.setPc p).fetchWord = joinBytes s.V[k] s.V[k.val + 1] := congrArg₂ joinBytes hhi hlo
  have hpc : p.toNat < 4095 := by omega
  exact step_of_decode (s := t.setPc p) htfault hpc (hword ▸ hdecode)

end Sys2Proof.Machine
end

section
/-! Reset, boot and the host's read-outs (spec/70_reset_and_hazards.md, spec/60_exceptions.md): the reset state, what the
first ticks from it execute, a word placed at pc, the display as a flat list, and the fields of a fault record. -/

namespace Sys2Proof.Machine

open Sys2Proof

/-! ### The reset state -/

theorem resetByte_of_lt (font : Config.Font) {a : Nat} (h : a < 80) : resetByte font a = font[a] := dif_pos h

theorem resetByte_of_ge (font : Config.Font) {a : Nat} (h : 80 ≤ a) : resetByte font a = 0 := dif_neg (Nat.not_lt.2 h)

theorem State.newCore_atReset (font : Config.Font) : AtReset font (State.newCore font) :=
  ⟨fun r => Vector.getElem_replicate r.isLt, rfl, rfl, fun j => Vector.getElem_replicate j.isLt, rfl, rfl, rfl,
    fun a => resetByte_of_lt font a.isLt, fun _ ha _ => resetByte_of_ge font ha, Display.pixel_blank,
    fun k => Vector.getElem_replicate k.isLt, rfl⟩

/-- Settles O51: the reset state and the states after `new` and `reset` are new cores, but for the draw counter. -/
theorem newAndResetGiveTheResetState : Obligations.NewAndResetGiveTheResetState :=
  ⟨State.newCore_atReset defaultFont, State.newCore_atReset,
   fun s => ⟨s.resetCore, rfl, State.newCore_atReset s.font, rfl, rfl⟩,
   fun s => ⟨s.resetCore, rfl, State.newCore_atReset s.font⟩⟩

/-! ### Two bytes stored are the word read -/

theorem State.readWord_storeBytes (s : State) (a : Nat) (hi lo : Byte) (rest : List Byte) :
    (s.storeBytes a (hi :: lo :: rest)).readWord a = joinBytes hi lo :=
  congrArg₂ joinBytes (s.readByte_storeBytes_add a (k := 0) (by simp))
    (s.readByte_storeBytes_add a (k := 1) (by simp))

/-- Settles O53: the load leaves pc at 0x200 and puts the image's first word there. -/
theorem bootRunsTheImage : Obligations.BootRunsTheImage := by
  intro font b0 b1 rest i hfits hdecode
  have hload := perform_load_of_fits (State.newCore font) (rom := b0 :: b1 :: rest) hfits
  have hframe := (State.newCore font).onlyChanges_storeBytes 0x200 (b0 :: b1 :: rest)
  have hword := (State.newCore font).readWord_storeBytes 0x200 b0 b1 rest
  generalize (State.newCore font).storeBytes 0x200 (b0 :: b1 :: rest) = t at hload hframe hword
  have hpc : t.pc = 0x200 := hframe .pc (by decide)
  have hfault : t.fault = none := hframe .fault (by decide)
  have hfetch : t.fetchWord = joinBytes b0 b1 := by rw [State.fetchWord, hpc]; exact hword
  have hafter : t.afterFetch = { t with pc := 0x202 } := by rw [State.afterFetch_eq, hpc]; rfl
  refine ⟨t, hload, hpc, ?_⟩
  rw [step_of_decode hfault (by rw [hpc]; decide) (hfetch ▸ hdecode), hafter]

/-! ### Zeroed memory -/

/-- A new core whose pc has gone on to `p`. -/
def State.newCoreAt (font : Config.Font) (p : Nat) : State := (State.newCore font).setPc (BitVec.ofNat 16 p)

theorem State.newCoreAt_pc_toNat (font : Config.Font) {p : Nat} (hp : p ≤ 0x1000) :
    (State.newCoreAt font p).pc.toNat = p := by
  rw [State.newCoreAt, State.setPc_pc, BitVec.toNat_ofNat]
  omega

theorem State.newCoreAt_fetchWord (font : Config.Font) {p : Nat} (hlo : 80 ≤ p) (hhi : p ≤ 0x1000) :
    (State.newCoreAt font p).fetchWord = 0 := by
  have hbyte : ∀ a, 80 ≤ a → (State.newCoreAt font p).readByte a = 0 := fun a ha => resetByte_of_ge font ha
  rw [State.fetchWord, State.newCoreAt_pc_toNat font hhi, State.readWord, hbyte p hlo, hbyte (p + 1) (by omega)]
  rfl

/-- A tick above the font is a NOP. -/
theorem step_newCoreAt (font : Config.Font) {p : Nat} (hlo : 80 ≤ p) (hhi : p < 4095) :
    step (State.newCoreAt font p) = .next (State.newCoreAt font (p + 2)) := by
  have hpc := State.newCoreAt_pc_toNat font (p := p) (by omega)
  have hdecode : decode (State.newCoreAt font p).fetchWord = .ok .nop := by
    rw [State.newCoreAt_fetchWord font hlo (by omega)]
    exact decode_encode .nop
  have hnext : BitVec.ofNat 16 p + 2 = BitVec.ofNat 16 (p + 2) := (BitVec.ofNat_add ..).symm
  rw [step_of_decode rfl (by omega) hdecode, State.newCoreAt, State.newCoreAt, ← hnext]
  rfl

/-- `k` ticks below the end of memory, and then whatever commands follow. -/
theorem performAll_ticks_newCoreAt (font : Config.Font) (cs : List Command) {k p : Nat} (hlo : 80 ≤ p)
    (hhi : p + 2 * k ≤ 0x1000) :
    performAll (List.replicate k .tick ++ cs) (State.newCoreAt font p) =
      performAll cs (State.newCoreAt font (p + 2 * k)) := by
  induction k generalizing p with
  | zero => rfl
  | succ k ih =>
    have htick := perform_tick_of_step (step_newCoreAt font hlo (by omega))
    rw [List.replicate_succ, List.cons_append, performAll_cons_of_perform htick, ih (by omega) (by omega),
      show p + 2 + 2 * k = p + 2 * (k + 1) by omega]

/-- Settles O54: every tick up to the end of memory is a NOP (`step_newCoreAt`), and the next one finds no word. -/
theorem zeroedMemoryRunsToTheEnd : Obligations.ZeroedMemoryRunsToTheEnd := by
  intro font
  constructor
  · intro k hk
    have hrun := performAll_ticks_newCoreAt font [] (k := k) (p := 0x200) (by decide) (by omega)
    rwa [List.append_nil] at hrun
  · have hrun := performAll_ticks_newCoreAt font [.tick] (k := 1792) (p := 0x200) (by decide) (by decide)
    have hlast : step (State.newCoreAt font 0x1000) = .next (State.newCoreAt font 0x1000).fetchFault :=
      step_of_not_fetchable rfl (by rw [State.newCoreAt_pc_toNat font le_rfl]; decide)
    rw [← List.replicate_succ', performAll_cons_of_perform (perform_tick_of_step hlast)] at hrun
    exact hrun

/-! ### A placed word -/

theorem tableWord_toNat (w : Word) : tableWord 16 w.toNat = w := by
  rw [tableWord, Nat.mod_eq_of_lt w.isLt, BitVec.ofNat_toNat, BitVec.setWidth_eq]

/-- The pc at which a word is placed: the present one, where a word can be fetched from it. -/
def State.placePc (s : State) : Word := if s.fetchable then s.pc else 0x200

theorem State.placePc_toNat_lt (s : State) : s.placePc.toNat < 4095 := by
  unfold State.placePc
  split
  next h => exact s.fetchable_iff.1 h
  next => decide

theorem State.placePc_of_lt {s : State} (h : s.pc.toNat < 4095) : s.placePc = s.pc := if_pos (s.fetchable_iff.2 h)

/-- Placing a word is a run of two stores, and then a write of pc and of FAULT. -/
theorem State.withFetchWord_eq (s : State) (w : Word) :
    s.withFetchWord 16 w.toNat =
      { s.storeBytes s.placePc.toNat [highByte w, lowByte w] with pc := s.placePc, fault := none } := by
  rw [State.withFetchWord, tableWord_toNat]
  rfl

theorem State.withFetchWord_fetchWord (s : State) (w : Word) : (s.withFetchWord 16 w.toNat).fetchWord = w := by
  have hread := s.readWord_storeBytes s.placePc.toNat (highByte w) (lowByte w) []
  rw [joinBytes_bytes] at hread
  rw [State.withFetchWord_eq]
  exact hread

theorem State.onlyChanges_withFetchWord (s : State) (w : Word) :
    OnlyChanges [.pc, .mem, .fault] s (s.withFetchWord 16 w.toNat) := by
  rw [State.withFetchWord_eq]
  intro c hc
  have hstore := s.onlyChanges_storeBytes s.placePc.toNat [highByte w, lowByte w]
  have hsame := hstore.mono (ds := [.pc, .mem, .fault]) (by decide) c hc
  cases c with
  | pc | fault => exact absurd (by decide) hc
  | _ => exact hsame

theorem State.memSameOutside_withFetchWord (s : State) (w : Word) :
    MemSameOutside s.placePc.toNat 2 s (s.withFetchWord 16 w.toNat) := by
  rw [State.withFetchWord_eq]
  exact s.memSameOutside_storeBytes s.placePc.toNat [highByte w, lowByte w]

/-- Settles O55: the word placed is the one fetched, and it decodes to its instruction (O1). -/
theorem placedWordRunsNext : Obligations.PlacedWordRunsNext := by
  intro s i
  have hpc : (s.withFetchWord 16 (encode i).toNat).pc = s.placePc := by rw [State.withFetchWord_eq]
  have hfault : (s.withFetchWord 16 (encode i).toNat).fault = none := by rw [State.withFetchWord_eq]
  have hdecode : decode (s.withFetchWord 16 (encode i).toNat).fetchWord = .ok i := by
    rw [State.withFetchWord_fetchWord, decode_encode]
  refine ⟨step_of_decode hfault (hpc ▸ s.placePc_toNat_lt) hdecode, s.onlyChanges_withFetchWord _,
    fun _ hlt => ?_⟩
  have hplace := State.placePc_of_lt hlt
  exact ⟨hpc.trans hplace, hplace ▸ s.memSameOutside_withFetchWord _⟩

/-! ### The display read-out -/

/-- The flat list is the library's flattening of the rows. -/
theorem Display.flat_eq (d : Display) : d.flat = (Vector.flatten d).toList := by
  simp only [Display.flat, Vector.flatten, Vector.toList, Array.toList_flatten, Array.toList_map, List.map_map]
  rfl

theorem Display.flat_getElem? (d : Display) (c : Fin 64) (r : Fin 32) :
    d.flat[r.val * 64 + c.val]? = some (d.pixel c r) := by
  have hc := c.isLt
  have hr := r.isLt
  have hdiv : (r.val * 64 + c.val) / 64 = r.val := by omega
  have hmod : (r.val * 64 + c.val) % 64 = c.val := by omega
  rw [Display.flat_eq, Vector.getElem?_toList, Vector.getElem?_flatten, dif_pos (by omega)]
  simp only [hdiv, hmod]
  rfl

/-- Settles O50: the read-outs answer a component, and the flat list is the flattening of 32 rows of 64. -/
theorem readOutsChangeNothing : Obligations.ReadOutsChangeNothing := by
  intro s
  have hlength : s.display.flat.length = 2048 := by rw [Display.flat_eq, Vector.length_toList]
  exact ⟨rfl, hlength, s.display.flat_getElem?, rfl, rfl⟩

/-! ### The fields of a fault record -/

/-- Settles O56: a tick's record is that of R222 (O10), and a code names its kind (`FaultKind.code_inj`). -/
theorem faultCodesAndRecordedFields : Obligations.FaultCodesAndRecordedFields := by
  refine ⟨⟨rfl, rfl, rfl, rfl, rfl, rfl⟩, fun s t r hfault hstep hr => ?_⟩
  obtain ⟨kind, rfl, -⟩ := step_fault_cases hfault hstep hr
  cases hr
  have hfetch : kind.code = 5 ↔ kind = .fetchOutOfRange := kind.code_inj .fetchOutOfRange
  have hmemory : kind.code = 4 ↔ kind = .memoryOutOfRange := kind.code_inj .memoryOutOfRange
  refine ⟨kind.code_range, ?_, ?_, rfl⟩
  · rw [State.recordOf, hfetch, ite_eq_left_iff]
    simp
  · rw [State.recordOf, hmemory]
    simp

end Sys2Proof.Machine
end
